-- ==== Sys2Proof/Word.lean ====
section
/-! DEFINITION. The word types of AFBQ (00_scope.md R7, R9; 30_encoding.md R100). -/

namespace Sys2Proof

/-- A 32-bit word: command, response, status and event words are all this wide (R100). -/
abbrev Word := BitVec 32

/-- A Block size: SIZE_W = 32 bits (R7). -/
abbrev Size := BitVec 32

/-- A timeout or wait timer: TIMEOUT_W = 32 bits (R7). -/
abbrev Ticks := BitVec 32

end Sys2Proof
end

