-- ==== Sys2Proof/Config.lean ====
section
/-! DEFINITION. What an implementation of AFBQ fixes (00_scope.md R7) and the values the spec leaves
to the environment (10_state.md R54, 40_queue_flow.md R151). -/

namespace Sys2Proof

/-- A Block handle, opaque to AFBQ (20_memory.md R73): the number on its BLK_W wires. BLK_W is the
parameter `Params.blkW`, so the bound is a predicate and not part of the type (log 1). -/
structure Handle where
  val : Nat
  deriving DecidableEq, Repr

/-- NULL, the handle meaning "no Block": all zero (R7). -/
abbrev NULL : Handle := { val := 0 }

/-- The handle is a value of `w` wires. -/
abbrev Handle.fits (w : Nat) (h : Handle) : Prop := h.val < 2 ^ w

/-- What `w` wires carry of a handle: the handle itself if it fits. DEDUCED for a number that does
not (log 1). -/
def Handle.wired (w : Nat) (h : Handle) : Handle := { val := h.val % 2 ^ w }

/-- One answer of `pool[d].alloc()`: a handle or BUSY (10_state.md R51). -/
inductive PoolAnswer where
  | busy
  | block (h : Handle)
  deriving DecidableEq, Repr, Inhabited

/-- The OPEN parameters of R7 that the rules read. They are carried in `State.par`, so a statement
over all states is a statement for every value of them (log 2). PERIPH_DR is symbolic
(`Machine.DmaAddr`, log 10). -/
structure Params where
  /-- `QCAP[RX]`, items of the RX Block Queue, at least 1 (R7, R8). -/
  qcapRx : Nat
  /-- `QCAP[TX]`. -/
  qcapTx : Nat
  /-- BLK_W, the width of a Block handle. -/
  blkW : Nat
  /-- FILLER, the handle of the filler buffer, not NULL (R7). -/
  filler : Handle
  /-- HAS_FILLER. -/
  hasFiller : Bool
  /-- FULL_DUPLEX, the strap sampled at reset (10_state.md R36). -/
  fullDuplex : Bool
  /-- FORMAT_LEGAL, the legal sample-format codes. -/
  formatLegal : List (BitVec 8)
  deriving DecidableEq, Repr

/-- The bounds R7 puts on the parameters. -/
abbrev Params.ok (p : Params) : Prop :=
  1 ≤ p.qcapRx ∧ 1 ≤ p.qcapTx ∧ p.filler ≠ NULL ∧ p.filler.fits p.blkW

/-- The parameter values `Machine.State.reset` is built with: those the vectors of
95_test_vectors.md assume, BLK_W at its default. DESIGN CHOICE, unsafe where a statement would rest
on them; none does (log 2). -/
def Config.params : Params :=
  { qcapRx := 2, qcapTx := 4, blkW := 32, filler := { val := 0xFFFFFFFF }, hasFiller := false,
    fullDuplex := false, formatLegal := [0#8] }

/-- FREE VALUE: the answer a pool proposes to the n-th free draw, once the answers listed in the state
are used up (10_state.md R54 item 2, 93_implementation_defined.md U6; log 6). -/
opaque Config.poolDraw : Nat → PoolAnswer

/-- FREE VALUE: the synchroniser's own choice of `j` at the n-th free draw (40_queue_flow.md R151;
log 7). -/
opaque Config.syncDraw : Nat → Nat

end Sys2Proof
end

