-- ==== Sys2Proof/Syntax.lean ====
section
/-! DEFINITION. The operations of AFBQ as syntax (30_encoding.md R100 to R107, R115): one constructor
of `Instr` per row of spec/opcode_table.json. -/

namespace Sys2Proof

/-- A direction, `d` of R9: it indexes every per-stream item. -/
inductive Dir where
  | rx
  | tx
  deriving DecidableEq, Repr

/-- `o(d)`, the other direction (R9). -/
def Dir.other : Dir → Dir
  | .rx => .tx
  | .tx => .rx

/-- The legal values of a DIR operand (R102). -/
inductive DirSel where
  | rx
  | tx
  | both
  deriving DecidableEq, Repr

/-- The port an operation is presented on (R104). -/
inductive Port where
  | a
  | b
  deriving DecidableEq, Repr

/-- What the A port presents in one step: a command word and, in parallel with it, the payload
wires (R100): CONFIGURE's record `p0 .. p4` (R105), and WRITE's `blk` and `size` (R107, log 16). -/
structure Bundle where
  cw : Word
  p0 : Word
  p1 : Word
  p2 : Word
  p3 : Word
  p4 : Word
  blk : Handle
  size : Size
  deriving DecidableEq, Repr

/-- The thirteen encoded operations (R104). -/
inductive Instr where
  /-- CONFIGURE DIR, W0..W4 (44_configure_status.md R271). -/
  | configure (dir : DirSel) (w0 w1 w2 w3 w4 : Word)
  /-- TRIGGER.START DIR (41_trigger.md R174). -/
  | triggerStart (dir : DirSel)
  /-- TRIGGER.STOP DIR (R175). -/
  | triggerStop (dir : DirSel)
  /-- TRIGGER.DRAIN DIR (R177). -/
  | triggerDrain (dir : DirSel)
  /-- TRIGGER.DROP DIR (R178). -/
  | triggerDrop (dir : DirSel)
  /-- TRIGGER.PREPARE DIR (R179). -/
  | triggerPrepare (dir : DirSel)
  /-- STATUS DIR (44_configure_status.md R273); BOTH is not well formed. -/
  | status (dir : DirSel)
  /-- READ (43_read_write.md R241). -/
  | read
  /-- WRITE blk, size (R246). -/
  | write (blk : Handle) (size : Size)
  /-- TEARDOWN (44_configure_status.md R274). -/
  | teardown
  /-- RX_DONE status (42_completion.md R211). -/
  | rxDone (status : BitVec 8)
  /-- TX_DONE status (R215). -/
  | txDone (status : BitVec 8)
  /-- PERIPH_FAULT flags (R220). -/
  | periphFault (flags : BitVec 3)
  deriving DecidableEq, Repr

/-- The port that carries an operation (R104). -/
def Instr.port : Instr → Port
  | .configure .. => .a
  | .triggerStart _ => .a
  | .triggerStop _ => .a
  | .triggerDrain _ => .a
  | .triggerDrop _ => .a
  | .triggerPrepare _ => .a
  | .status _ => .a
  | .read => .a
  | .write _ _ => .a
  | .teardown => .a
  | .rxDone _ => .b
  | .txDone _ => .b
  | .periphFault _ => .b

end Sys2Proof
end

