-- ==== Sys2Proof/WellFormed.lean ====
section
/-! DEFINITION. Which operations have an encoding (30_encoding.md R104, column "DIR accepted").
The operand types leave one thing to check: STATUS accepts RX and TX only. -/

namespace Sys2Proof

/-- The DIR operand of the operation is one that R104 accepts. -/
def Instr.wellFormed : Instr → Bool
  | .configure .. => true
  | .triggerStart _ => true
  | .triggerStop _ => true
  | .triggerDrain _ => true
  | .triggerDrop _ => true
  | .triggerPrepare _ => true
  | .status dir => decide (dir ≠ .both)
  | .read => true
  | .write _ _ => true
  | .teardown => true
  | .rxDone _ => true
  | .txDone _ => true
  | .periphFault _ => true

end Sys2Proof
end

