-- ==== Sys2Proof/Decode.lean ====
section
/-! DEFINITION. Decoding of command and event words (30_encoding.md R101 to R109, R115, R116), total
and rejecting by name, and the encoder written from the same tables. -/

namespace Sys2Proof

/-- Why a word is illegal (R108 steps 2 to 5, R116). -/
inductive DecodeError where
  /-- `OP` is not one of 1 .. 6 (R108 step 2). -/
  | badOp
  /-- A reserved bit is 1: `cw[25:3]` (R108 step 3), `ew[27:8]` or `ew[7:3]` (R116). -/
  | reservedBits
  /-- `DIR` is 3 or not accepted by the operation (R108 step 4). -/
  | badDir
  /-- `SUB` is not accepted (R108 step 5). -/
  | badSub
  /-- `EV` is not 0x8, 0x9 or 0xA (R116). -/
  | badEvent
  deriving DecidableEq, Repr

/-- `v[lo + n - 1 : lo]` (R9). -/
def bits (n lo : Nat) (v : Word) : BitVec n := v.extractLsb' lo n

/-- `OP` of a command word, `EV` of an event word (R101, R115). -/
def fieldOp (w : Word) : BitVec 4 := bits 4 28 w

/-- `DIR` (R101). -/
def fieldDir (w : Word) : BitVec 2 := bits 2 26 w

/-- The reserved field `cw[25:3]` (R101). -/
def fieldZero (w : Word) : BitVec 23 := bits 23 3 w

/-- `SUB` (R101). -/
def fieldSub (w : Word) : BitVec 3 := bits 3 0 w

/-- The DIR codes (R102); 3 is reserved. -/
def dirOfBits (v : BitVec 2) : Option DirSel :=
  if v = 0#2 then some .rx else if v = 1#2 then some .tx else if v = 2#2 then some .both else none

/-- The code of a DIR operand (R102). -/
def DirSel.code : DirSel → BitVec 2
  | .rx => 0#2
  | .tx => 1#2
  | .both => 2#2

/-- R108 step 4: the directions each `OP` accepts (R104). -/
def dirAccepted (op : BitVec 4) (dir : DirSel) : Bool :=
  if op = 1#4 ∨ op = 2#4 then true
  else if op = 3#4 then decide (dir ≠ .both)
  else if op = 4#4 then decide (dir = .rx)
  else if op = 5#4 then decide (dir = .tx)
  else decide (dir = .both)

/-- The TRIGGER command a SUB value names (R103); 5, 6, 7 are reserved. -/
def triggerOfSub (sub : BitVec 3) (dir : DirSel) : Option Instr :=
  if sub = 0#3 then some (.triggerStart dir)
  else if sub = 1#3 then some (.triggerStop dir)
  else if sub = 2#3 then some (.triggerDrain dir)
  else if sub = 3#3 then some (.triggerDrop dir)
  else if sub = 4#3 then some (.triggerPrepare dir)
  else none

/-- The operation of a word whose `SUB` is 0 and whose `OP` is not TRIGGER's (R104). -/
def plainOfOp (op : BitVec 4) (dir : DirSel) (b : Bundle) : Instr :=
  if op = 1#4 then .configure dir b.p0 b.p1 b.p2 b.p3 b.p4
  else if op = 3#4 then .status dir
  else if op = 4#4 then .read
  else if op = 5#4 then .write b.blk b.size
  else .teardown

/-- Decoding of an A-port command: the checks of R108 steps 2 to 5, in their order. -/
def decodeCommand (b : Bundle) : Except DecodeError Instr :=
  if fieldOp b.cw < 1#4 ∨ 6#4 < fieldOp b.cw then .error .badOp
  else if fieldZero b.cw ≠ 0#23 then .error .reservedBits
  else
    match dirOfBits (fieldDir b.cw) with
    | none => .error .badDir
    | some dir =>
      if dirAccepted (fieldOp b.cw) dir then
        if fieldOp b.cw = 2#4 then
          match triggerOfSub (fieldSub b.cw) dir with
          | some i => .ok i
          | none => .error .badSub
        else if fieldSub b.cw = 0#3 then .ok (plainOfOp (fieldOp b.cw) dir b)
        else .error .badSub
      else .error .badDir

/-- Decoding of a B-port event word (R115, R116). -/
def decodeEvent (ew : Word) : Except DecodeError Instr :=
  if fieldOp ew = 0x8#4 then
    if bits 20 8 ew = 0#20 then .ok (.rxDone (bits 8 0 ew)) else .error .reservedBits
  else if fieldOp ew = 0x9#4 then
    if bits 20 8 ew = 0#20 then .ok (.txDone (bits 8 0 ew)) else .error .reservedBits
  else if fieldOp ew = 0xA#4 then
    if bits 20 8 ew = 0#20 ∧ bits 5 3 ew = 0#5 then .ok (.periphFault (bits 3 0 ew))
    else .error .reservedBits
  else .error .badEvent

/-- Decoding on either port. An event arrives on the B port, where there is no payload. -/
def decode : Port → Bundle → Except DecodeError Instr
  | .a, b => decodeCommand b
  | .b, b => decodeEvent b.cw

/-- A command word from its fields (R101). -/
def commandWord (op : BitVec 4) (dir : BitVec 2) (sub : BitVec 3) : Word :=
  op ++ dir ++ 0#23 ++ sub

/-- A completion event word from its fields (R115). -/
def doneWord (ev : BitVec 4) (status : BitVec 8) : Word := ev ++ 0#20 ++ status

/-- A PERIPH_FAULT event word (R115). -/
def faultWord (flags : BitVec 3) : Word := 0xA#4 ++ 0#25 ++ flags

/-- A word without payload: the payload wires are 0. -/
def Bundle.ofWord (w : Word) : Bundle :=
  { cw := w, p0 := 0, p1 := 0, p2 := 0, p3 := 0, p4 := 0, blk := NULL, size := 0 }

/-- The word and payload of an operation (R104, R105, R107, R115). -/
def encode : Instr → Bundle
  | .configure dir w0 w1 w2 w3 w4 =>
    { Bundle.ofWord (commandWord 1#4 dir.code 0#3) with
      p0 := w0, p1 := w1, p2 := w2, p3 := w3, p4 := w4 }
  | .triggerStart dir => .ofWord (commandWord 2#4 dir.code 0#3)
  | .triggerStop dir => .ofWord (commandWord 2#4 dir.code 1#3)
  | .triggerDrain dir => .ofWord (commandWord 2#4 dir.code 2#3)
  | .triggerDrop dir => .ofWord (commandWord 2#4 dir.code 3#3)
  | .triggerPrepare dir => .ofWord (commandWord 2#4 dir.code 4#3)
  | .status dir => .ofWord (commandWord 3#4 dir.code 0#3)
  | .read => .ofWord (commandWord 4#4 0#2 0#3)
  | .write blk size =>
    { Bundle.ofWord (commandWord 5#4 1#2 0#3) with blk := blk, size := size }
  | .teardown => .ofWord (commandWord 6#4 2#2 0#3)
  | .rxDone status => .ofWord (doneWord 0x8#4 status)
  | .txDone status => .ofWord (doneWord 0x9#4 status)
  | .periphFault flags => .ofWord (faultWord flags)

/-- The word and payload whose bits are `w`, numbered as spec/opcode_table.json numbers them: the
command word is bits 31..0 and the payload follows, the five words of CONFIGURE or the size and,
above it, the handle of WRITE (log 16). Bits from `nbits` up are 0. -/
def bundleOfTable (nbits w : Nat) : Bundle :=
  let v := w % 2 ^ nbits
  { cw := BitVec.ofNat 32 v, p0 := BitVec.ofNat 32 (v / 2 ^ 32), p1 := BitVec.ofNat 32 (v / 2 ^ 64),
    p2 := BitVec.ofNat 32 (v / 2 ^ 96), p3 := BitVec.ofNat 32 (v / 2 ^ 128),
    p4 := BitVec.ofNat 32 (v / 2 ^ 160), blk := { val := v / 2 ^ 64 },
    size := BitVec.ofNat 32 (v / 2 ^ 32) }

/-- The port a word of the opcode table belongs to: the B port if it is a legal event word (R115),
else the A port. The two ports' legal words do not overlap (R104). -/
def portOfTable (b : Bundle) : Port :=
  match decodeEvent b.cw with
  | .ok _ => .b
  | .error _ => .a

/-- The operation the decoder reads from the bits of an opcode-table word. -/
def decodeTableWord (nbits w : Nat) : Option Instr :=
  match decode (portOfTable (bundleOfTable nbits w)) (bundleOfTable nbits w) with
  | .ok i => some i
  | .error _ => none

end Sys2Proof
end

