-- ==== Sys2Proof/Machine/State.lean ====
section
/-! DEFINITION. The state of one AFBQ Device (10_state.md), the things a step can record
(20_memory.md R94), the environment's moves (00_scope.md R11), and the state after reset (R44). -/

namespace Sys2Proof.Machine

/-- The five states of a stream (10_state.md R21). Codes 5 to 7 are not representable (U10). -/
inductive StreamState where
  | notReady
  | ready
  | running
  | stopping
  | error
  deriving DecidableEq, Repr

/-- The fault causes (60_exceptions.md R293). Code 7 is not representable (U10). -/
inductive FaultCause where
  | none
  | dmaError
  | periph
  | allocFail
  | overrun
  | underrun
  | peer
  deriving DecidableEq, Repr

/-- The response codes (30_encoding.md R112). Codes 7 to 15 are not representable (U10). -/
inductive Code where
  | ok
  | invalidArgument
  | invalidState
  | resourceExhausted
  | timeout
  | hardwareFault
  | queueEmpty
  deriving DecidableEq, Repr

/-- The phase of the RD or WR channel (10_state.md R37, R38). -/
inductive Phase where
  | idle
  | wait
  deriving DecidableEq, Repr

/-- The A-port channels (R110). -/
inductive Channel where
  | cmd
  | rd
  | wr
  deriving DecidableEq, Repr

/-- A Block as AFBQ sees it: a handle and a size (R28, R71). -/
structure Block where
  h : Handle
  sz : Size
  deriving DecidableEq, Repr

/-- `(NULL, 0)` (R23). -/
abbrev Block.null : Block := { h := NULL, sz := 0#32 }

/-- A slot array `slot[d]`: the slots that differ from what an unlisted slot reads as, by index, in
rising order (20_memory.md R70, R71; log 3). -/
abbrev Memory := List (Nat × Block)

/-- The stored configuration `cfg[d]` (R33). -/
structure Cfg where
  freq : BitVec 32
  wordSize : BitVec 6
  channelCount : BitVec 8
  format : BitVec 8
  options : BitVec 8
  blockSize : Size
  blockCount : BitVec 16
  timeout : Ticks
  deriving DecidableEq, Repr

/-- Every field 0 (R44). -/
def Cfg.zero : Cfg :=
  { freq := 0, wordSize := 0, channelCount := 0, format := 0, options := 0, blockSize := 0,
    blockCount := 0, timeout := 0 }

/-- One end of a DMA transfer: the symbolic constant PERIPH_DR or a Block (R52, log 10). -/
inductive DmaAddr where
  | periphDr
  | block (h : Handle)
  deriving DecidableEq, Repr

/-- The calls AFBQ emits to its collaborators (R51 to R53). -/
inductive Call where
  | poolAlloc (d : Dir)
  | poolFree (d : Dir) (h : Handle)
  | dmaConfigure (d : Dir) (src dst : DmaAddr) (size : Size) (wordSize : BitVec 6)
  | dmaStart (d : Dir)
  | dmaReload (d : Dir) (src dst : DmaAddr) (size : Size)
  | dmaStop (d : Dir)
  | periphEnable
  | periphDisable
  | dmareqEnable (d : Dir)
  | dmareqDisable (d : Dir)
  | errirqEnable (d : Dir)
  | errirqDisable (d : Dir)
  | clearErrors
  | cacheClean (h : Handle) (size : Size)
  | fillerCopy (h : Handle) (size : Size)
  deriving DecidableEq, Repr

/-- What one response drives: the channel, the code of the response word, and the payload wires
(R112, R113); wires the response does not use are 0 (log 12). -/
structure Response where
  ch : Channel
  code : Code
  blk : Handle
  size : Size
  sw : Word
  deriving DecidableEq, Repr

/-- One move of the environment or of a part of the hardware: the atomic steps of R11 and R117, the
reset input (70_reset_and_hazards.md R330), and the application's own dealings with the pools. -/
inductive Stimulus where
  /-- A command word and payload on the A port (R100). -/
  | command (b : Bundle)
  /-- An event word on the B port (R115). -/
  | event (ew : Word)
  | rdGrant
  | rdTimeout
  | wrGrant
  | wrTimeout
  | tick
  /-- The application takes a Block from a pool by itself (10_state.md R57, log 23). -/
  | appAlloc (h : Handle)
  /-- The application gives a Block it owns back to its pool (43_read_write.md R242, log 23). -/
  | appFree (h : Handle)
  /-- SYNC(d) with its choice of `j` (40_queue_flow.md R151). -/
  | sync (d : Dir) (j : Nat)
  | reset
  deriving DecidableEq, Repr

/-- An entry of the event history (20_memory.md R94). Each step contributes its operation, the
answers it consumed, the calls it emitted and its responses, in that order
(`Machine.contribute`). -/
inductive Event where
  /-- The operation or internal step that ran. -/
  | op (m : Stimulus)
  /-- An answer of `pool[d].alloc()` it consumed. -/
  | alloc (d : Dir) (a : PoolAnswer)
  /-- A call it emitted (R50). -/
  | call (c : Call)
  /-- A response it gave (R112). -/
  | resp (r : Response)
  deriving DecidableEq, Repr

/-- One stream: the registers of 10_state.md R21 to R33 that both directions have. -/
structure Stream where
  /-- `state[d]` (R21). -/
  state : StreamState
  /-- `active[d]` (R23). -/
  active : Block
  /-- `slot[d]` (R28). -/
  slots : Memory
  /-- `head[d]` (R29). -/
  head : Nat
  /-- `tail[d]` (R29). -/
  tail : Nat
  /-- `give_cnt[d]` (R30). -/
  giveCnt : Nat
  /-- `take_cnt[d]` (R30). -/
  takeCnt : Nat
  /-- `give_view[d]` (R30). -/
  giveView : Nat
  /-- `armed[d]` (R31). -/
  armed : Bool
  /-- `fault_cause[d]` (R32). -/
  faultCause : FaultCause
  /-- `cfg[d]` (R33). -/
  cfg : Cfg
  deriving DecidableEq, Repr

/-- The state of the Device (R20), with the model's own fields `par`, `pending`, `rxPool`, `txPool`,
`draws` and `app` (logs 2, 4, 6, 7, 23). -/
structure State where
  /-- The OPEN parameters (00_scope.md R7); no step changes them. -/
  par : Params
  rx : Stream
  tx : Stream
  /-- `last_block_flag` (R24). -/
  lastBlockFlag : Bool
  /-- `overrun` (R25). -/
  overrun : Bool
  /-- `underrun` (R26). -/
  underrun : Bool
  /-- `filler_size` (R27). -/
  fillerSize : Size
  /-- The Block whose contents the filler buffer was last given (R27, log 13). -/
  fillerBuf : Block
  /-- `periph_enabled` (R35). -/
  periphEnabled : Bool
  /-- `full_duplex` (R36). -/
  fullDuplex : Bool
  /-- `rd_phase` (R37). -/
  rdPhase : Phase
  /-- `rd_timer` (R37). -/
  rdTimer : Ticks
  /-- `wr_phase` (R38). -/
  wrPhase : Phase
  /-- `wr_timer` (R38). -/
  wrTimer : Ticks
  /-- `wr_h` (R38). -/
  wrH : Handle
  /-- `wr_sz` (R38). -/
  wrSz : Size
  /-- The event history (20_memory.md R94); its calls are the output trace of R50. -/
  log : List Event
  /-- The moves not yet taken, in the environment's order (R11). -/
  pending : List Stimulus
  /-- The answers `pool[RX]` proposes next (R54). -/
  rxPool : List PoolAnswer
  /-- The answers `pool[TX]` proposes next. -/
  txPool : List PoolAnswer
  /-- How many free values were drawn. -/
  draws : Nat
  /-- The Blocks the application owns (R57, log 23). -/
  app : List Handle
  deriving DecidableEq, Repr

/-- Why a step stops. Both are assertions about the model's own state, raised by `Machine.step`
alone, and no state reachable from reset meets them (log 9). Safe: the model stops. -/
inductive Fault where
  /-- `flow_true[d]` lies outside 0 .. QCAP[d] (93_implementation_defined.md U7). -/
  | flowOutOfRange (d : Dir)
  /-- `head[d]` or `tail[d]` names a slot that does not exist (10_state.md R29, 20_memory.md R72). -/
  | indexOutOfRange (d : Dir)
  deriving DecidableEq, Repr

/-- Why an instruction has no meaning. No arm of `exec` uses it: safe. -/
inductive Refusal where
  /-- The instruction is not modelled yet; raised by an arm of `exec` only. -/
  | notModelled (mnemonic : String)
  deriving DecidableEq, Repr

/-- Stream `d`. -/
def State.stream (s : State) : Dir → Stream
  | .rx => s.rx
  | .tx => s.tx

/-- The state with stream `d` changed by `f`. -/
def State.upd (s : State) (d : Dir) (f : Stream → Stream) : State :=
  match d with
  | .rx => { s with rx := f s.rx }
  | .tx => { s with tx := f s.tx }

/-- `QCAP[d]` (R7). -/
def State.qcap (s : State) : Dir → Nat
  | .rx => s.par.qcapRx
  | .tx => s.par.qcapTx

/-- A stream after reset (R44). -/
def Stream.reset : Stream :=
  { state := .notReady, active := Block.null, slots := [], head := 0, tail := 0, giveCnt := 0,
    takeCnt := 0, giveView := 0, armed := false, faultCause := .none, cfg := Cfg.zero }

/-- The state after reset of a Device with parameters `p` (R44, 70_reset_and_hazards.md R331). -/
def State.resetWith (p : Params) : State :=
  { par := p, rx := Stream.reset, tx := Stream.reset, lastBlockFlag := false, overrun := false,
    underrun := false, fillerSize := 0, fillerBuf := Block.null, periphEnabled := false,
    fullDuplex := p.fullDuplex, rdPhase := .idle, rdTimer := 0, wrPhase := .idle, wrTimer := 0,
    wrH := NULL, wrSz := 0, log := [], pending := [], rxPool := [], txPool := [], draws := 0,
    app := [] }

/-- The machine right after reset, at the parameter values of `Config.params` (log 2). -/
def State.reset : State := State.resetWith Config.params

end Sys2Proof.Machine
end

