-- ==== Sys2Proof/Machine/Operands.lean ====
section
/-! DEFINITION. The operand forms: directions and targets (30_encoding.md R102, R111), the
configuration record (R105, R106) and its validation (44_configure_status.md R272), the legality of
TRIGGER commands (41_trigger.md R170). -/

namespace Sys2Proof.Machine

/-- The streams a DIR operand names, RX before TX (R102). CONFIGURE uses it literally (R271). -/
def addressed : DirSel → List Dir
  | .rx => [.rx]
  | .tx => [.tx]
  | .both => [.rx, .tx]

/-- `targets(DIR)` of a TRIGGER (R111). -/
def targets (dir : DirSel) (s : State) : List Dir :=
  if dir = .both ∨ s.fullDuplex = true then [.rx, .tx] else addressed dir

/-- The five TRIGGER commands (R103). -/
inductive Trigger where
  | start
  | stop
  | drain
  | drop
  | prepare
  deriving DecidableEq, Repr

/-- The table `legal(X, S)` of R170. -/
def legal : Trigger → StreamState → Bool
  | .start, q => decide (q = .ready)
  | .stop, q => decide (q = .running)
  | .drain, q => decide (q = .running)
  | .drop, q => decide (q ≠ .notReady)
  | .prepare, q => decide (q = .error)

/-- Every stream of `T` is in a state where `x` is legal: the check made before any change
(41_trigger.md R180). -/
def allLegal (x : Trigger) (T : List Dir) (s : State) : Bool :=
  T.all fun d => legal x (s.stream d).state

/-- The fields of the configuration record (R105). -/
def cfgOfWords (w0 w1 w2 w3 w4 : Word) : Cfg :=
  { freq := w0, wordSize := bits 6 0 w1, channelCount := bits 8 8 w1, format := bits 8 16 w1,
    options := bits 8 24 w1, blockSize := w2, blockCount := bits 16 0 w3, timeout := w4 }

/-- The reserved bits of the record are 0 (R105, R106; R272 check 3). -/
def reservedClear (w1 w3 : Word) : Bool :=
  decide (bits 2 6 w1 = 0#2) && decide (bits 16 16 w3 = 0#16) && decide (bits 4 28 w1 = 0#4)

/-- `options[2]`, DROP_ON_OVERRUN (R106). -/
def Cfg.dropOnOverrun (c : Cfg) : Bool := c.options.getLsbD 2

/-- `options[3]`, REPEAT_ON_UNDERRUN (R106). -/
def Cfg.repeatOnUnderrun (c : Cfg) : Bool := c.options.getLsbD 3

/-- `role[d]`, `options[0]`: true is SLAVE (10_state.md R22). No rule reads it. -/
def Cfg.slave (c : Cfg) : Bool := c.options.getLsbD 0

/-- `options[1]`, CLK_POL (R106). No rule reads it. -/
def Cfg.clockPolarity (c : Cfg) : Bool := c.options.getLsbD 1

/-- `Valid(rec, T)` (R272): its five checks, on the record whose second and fourth words are `w1`
and `w3`. -/
def validRecord (p : Params) (T : List Dir) (w1 w3 : Word) (c : Cfg) : Bool :=
  decide (c.wordSize = 16#6 ∨ c.wordSize = 24#6 ∨ c.wordSize = 32#6) &&
  p.formatLegal.contains c.format &&
  reservedClear w1 w3 &&
  decide (c.blockSize ≠ 0#32) &&
  (!(T.contains .tx && c.repeatOnUnderrun) || p.hasFiller)

/-- The argument check of WRITE (43_read_write.md R246). -/
def writeArgsBad (blk : Handle) (size : Size) (s : State) : Bool :=
  decide (size = 0#32) || decide (s.tx.cfg.blockSize < size) || decide (blk = NULL) ||
  decide (blk = s.par.filler)

/-- The channel an A-port word is routed to, by `OP` alone (R108 step 1). -/
def route (cw : Word) : Channel :=
  if fieldOp cw = 4#4 then .rd else if fieldOp cw = 5#4 then .wr else .cmd

end Sys2Proof.Machine
end

