-- ==== Sys2Proof/Machine/Flags.lean ====
section
/-! DEFINITION. The derived values and codes: widths and counter differences (00_scope.md R7,
10_state.md R30), occupancy (40_queue_flow.md R144), gray code (20_memory.md R84), the policy bits
(10_state.md R34), the response and status words (30_encoding.md R112, R114). -/

namespace Sys2Proof.Machine

/-- `ceil(log2(n))` (R7). -/
def ceilLog2 (n : Nat) : Nat := if n ≤ 1 then 0 else Nat.log2 (n - 1) + 1

/-- `IDX_W` for a capacity `q`: at least 1 (R7). -/
def idxW (q : Nat) : Nat := max 1 (ceilLog2 (q + 1))

/-- `CNT_W` for a capacity `q` (R7). -/
def cntW (q : Nat) : Nat := ceilLog2 (q + 1) + 1

/-- `2^CNT_W[d]`, the modulus of the flow counters (R30). -/
def flowMod (d : Dir) (s : State) : Nat := 2 ^ cntW (s.qcap d)

/-- `(a - b) mod m`, the subtraction taken over the integers (40_queue_flow.md R144, R153). -/
def subMod (m a b : Nat) : Nat := (((a : Int) - (b : Int)) % (m : Int)).toNat

/-- `INIT[d]` (R30). -/
def initFlow (d : Dir) (s : State) : Nat :=
  match d with
  | .rx => 0
  | .tx => s.qcap .tx

/-- `occ(d)`, the number of queued items (R144). -/
def occ (d : Dir) (s : State) : Nat :=
  subMod (s.qcap d + 1) (s.stream d).head (s.stream d).tail

/-- `flow_true[d]` (R30). -/
def flowTrue (d : Dir) (s : State) : Nat :=
  subMod (flowMod d s) (initFlow d s + (s.stream d).giveCnt) (s.stream d).takeCnt

/-- `flow_view[d]` (R30). -/
def flowView (d : Dir) (s : State) : Nat :=
  subMod (flowMod d s) (initFlow d s + (s.stream d).giveView) (s.stream d).takeCnt

/-- How far the view lags: `k` of SYNC (R151). -/
def viewLag (d : Dir) (s : State) : Nat :=
  subMod (flowMod d s) (s.stream d).giveCnt (s.stream d).giveView

/-- `gray_W(b)` (20_memory.md R84). -/
def grayCode {w : Nat} (b : BitVec w) : BitVec w := b ^^^ (b >>> 1)

/-- Bit `w - 1 - k` of `bin_W(g)`, from the top bit down (R84). -/
def grayDecodeBit {w : Nat} (g : BitVec w) : Nat → Bool
  | 0 => g.getLsbD (w - 1)
  | k + 1 => grayDecodeBit g k ^^ g.getLsbD (w - 1 - (k + 1))

/-- `bin_W(g)` (R84). -/
def grayDecode {w : Nat} (g : BitVec w) : BitVec w :=
  BitVec.ofFnLE fun i : Fin w => grayDecodeBit g (w - 1 - i.val)

/-- What `clk_a` sees of the `w`-bit counter value `n` after the gray-coded crossing (R86). -/
def cross (w n : Nat) : Nat := (grayDecode (grayCode (BitVec.ofNat w n))).toNat

/-- `drop_on_overrun` (10_state.md R34). -/
def dropOnOverrun (s : State) : Bool := s.rx.cfg.dropOnOverrun

/-- `repeat_on_underrun` (R34). -/
def repeatOnUnderrun (s : State) : Bool := s.tx.cfg.repeatOnUnderrun

/-- The code of a stream state (R21). -/
def StreamState.code : StreamState → BitVec 3
  | .notReady => 0#3
  | .ready => 1#3
  | .running => 2#3
  | .stopping => 3#3
  | .error => 4#3

/-- The code of a fault cause (60_exceptions.md R293). -/
def FaultCause.code : FaultCause → BitVec 3
  | .none => 0#3
  | .dmaError => 1#3
  | .periph => 2#3
  | .allocFail => 3#3
  | .overrun => 4#3
  | .underrun => 5#3
  | .peer => 6#3

/-- `rw[3:0]` (R112). -/
def Code.bits : Code → BitVec 4
  | .ok => 0#4
  | .invalidArgument => 1#4
  | .invalidState => 2#4
  | .resourceExhausted => 3#4
  | .timeout => 4#4
  | .hardwareFault => 5#4
  | .queueEmpty => 6#4

/-- The response word `rw` (R112). -/
def Response.word (r : Response) : Word := 0#28 ++ r.code.bits

/-- `min(v, 255)` in 8 bits (R114, R153). -/
def sat8 (v : Nat) : BitVec 8 := BitVec.ofNat 8 (min v 255)

/-- The loss flag STATUS shows: `overrun` for RX, `underrun` for TX (R114). -/
def lossFlag (d : Dir) (s : State) : Bool :=
  match d with
  | .rx => s.overrun
  | .tx => s.underrun

/-- `sw[5]`: `last_block_flag` for TX, 0 for RX (R114). -/
def lastFlag (d : Dir) (s : State) : Bool :=
  match d with
  | .rx => false
  | .tx => s.lastBlockFlag

/-- The status word `sw` of stream `d` (R114). -/
def statusWord (d : Dir) (s : State) : Word :=
  sat8 (occ d s) ++ sat8 (flowView d s) ++ 0#5 ++ BitVec.ofBool s.fullDuplex ++
  BitVec.ofBool s.periphEnabled ++ (s.stream d).faultCause.code ++ BitVec.ofBool (lastFlag d s) ++
  BitVec.ofBool (lossFlag d s) ++ BitVec.ofBool (s.stream d).armed ++ (s.stream d).state.code

/-- The call of a history entry. -/
def Event.call? : Event → Option Call
  | .call c => some c
  | _ => none

/-- The response of a history entry. -/
def Event.resp? : Event → Option Response
  | .resp r => some r
  | _ => none

/-- The pool answer of a history entry. -/
def Event.answer? : Event → Option (Dir × PoolAnswer)
  | .alloc d a => some (d, a)
  | _ => none

/-- The pool answers among history entries, in order. -/
def answersOf (l : List Event) : List (Dir × PoolAnswer) := l.filterMap Event.answer?

/-- The calls among history entries, in order. -/
def callsOf (l : List Event) : List Call := l.filterMap Event.call?

/-- The responses among history entries, in order. -/
def respsOf (l : List Event) : List Response := l.filterMap Event.resp?

/-- The output trace: the projection of the event history onto calls (10_state.md R50, 20_memory.md
R94). -/
def trace (s : State) : List Call := callsOf s.log

/-- The responses given since reset, in order (R58). -/
def responses (s : State) : List Response := respsOf s.log

end Sys2Proof.Machine
end

