-- ==== Sys2Proof/Machine/Ops.lean ====
section
/-! DEFINITION. The named procedures every operation is built from (00_scope.md R10): slot memory
(20_memory.md R72), calls and responses, Push to FlowReset (40_queue_flow.md R141 to R152), Arm,
Disable, StopStream (41_trigger.md R171 to R173), AbortWrite (43_read_write.md R250), and the fault
entry FaultOne, Fault (60_exceptions.md R295, R296) beside the two ways back, StopStream and
`prepareOne`. -/

namespace Sys2Proof.Machine

/-! ### Slot memory -/

/-- What a slot that nothing was written to reads as. DESIGN CHOICE, allowed by
93_implementation_defined.md U5 (log 3). -/
def Memory.unwritten : Block := Block.null

/-- The slot at index `i`. -/
def Memory.read : Memory → Nat → Block
  | [], _ => Memory.unwritten
  | (a, b) :: m, i => if a = i then b else Memory.read m i

/-- The memory with slot `i` replaced, in canonical form. -/
def Memory.write : Memory → Nat → Block → Memory
  | [], i, v => if v = Memory.unwritten then [] else [(i, v)]
  | (a, b) :: m, i, v =>
    if a < i then (a, b) :: Memory.write m i v
    else if a = i then (if v = Memory.unwritten then m else (i, v) :: m)
    else (if v = Memory.unwritten then (a, b) :: m else (i, v) :: (a, b) :: m)

/-- The canonical form: indices strictly rising, and no entry equal to what an unlisted slot reads
as. -/
abbrev Memory.wf (m : Memory) : Prop :=
  m.Pairwise (fun x y => x.1 < y.1) ∧ ∀ c ∈ m, c.2 ≠ Memory.unwritten

/-- `MemRead(d, i)` (20_memory.md R72). -/
def memRead (d : Dir) (i : Nat) (s : State) : Block := Memory.read (s.stream d).slots i

/-- `MemWrite(d, i, b)` (R72). -/
def memWrite (d : Dir) (i : Nat) (b : Block) (s : State) : State :=
  s.upd d fun t => { t with slots := Memory.write t.slots i b }

/-! ### Calls, responses, pool answers -/

/-- Append an entry to the event history (20_memory.md R94). -/
def record (e : Event) (s : State) : State := { s with log := s.log ++ [e] }

/-- `emit c` (00_scope.md R10). -/
def emit (c : Call) (s : State) : State := record (.call c) s

/-- `answer(ch, code)` and `respond(code)`: a response without payload, its payload wires 0
(30_encoding.md R112, R113). -/
def respond (ch : Channel) (code : Code) (s : State) : State :=
  record (.resp { ch := ch, code := code, blk := NULL, size := 0, sw := 0 }) s

/-- `answer(RD, OK, (h, s))` (43_read_write.md R242). -/
def answerBlock (b : Block) (s : State) : State :=
  record (.resp { ch := .rd, code := .ok, blk := b.h, size := b.sz, sw := 0 }) s

/-- `respond(OK, sw)` (44_configure_status.md R273). -/
def answerStatus (sw : Word) (s : State) : State :=
  record (.resp { ch := .cmd, code := .ok, blk := NULL, size := 0, sw := sw }) s

/-- The Blocks queued in stream `d`, oldest first: the slots from `tail` up to `head` (10_state.md
R29, 40_queue_flow.md R144). -/
def queued (d : Dir) (s : State) : List Block :=
  (List.range (occ d s)).map fun k => memRead d (((s.stream d).tail + k) % (s.qcap d + 1)) s

/-- The Block stream `d` owns as in-flight (10_state.md R57): the active one, unless there is none
or it is the filler, which belongs to AFBQ. -/
def inFlight (d : Dir) (s : State) : List Handle :=
  if (s.stream d).active.h = NULL ∨ (s.stream d).active.h = s.par.filler then []
  else [(s.stream d).active.h]

/-- The handles in the queue of stream `d`. -/
def queuedHandles (d : Dir) (s : State) : List Handle := (queued d s).map fun b => b.h

/-- Every Block that is not in a pool, once for each of its owners: in flight, in a queue, or the
application's (R57). -/
def owned (s : State) : List Handle :=
  inFlight .rx s ++ queuedHandles .rx s ++ inFlight .tx s ++ queuedHandles .tx s ++ s.app

/-- The handle a waiting WRITE holds; the application owns it (R57). -/
def latched (s : State) : List Handle := if s.wrPhase = .wait then [s.wrH] else []

/-- The obligation of 10_state.md R54 item 1 on one answer: a handle of the Device, neither NULL nor
FILLER, that nobody owns; `held` are the handles the running step has obtained. -/
def legalAnswer (s : State) (held : List Handle) : PoolAnswer → Bool
  | .busy => true
  | .block h =>
    decide (h ≠ NULL) && decide (h ≠ s.par.filler) && decide (h.fits s.par.blkW) &&
    !(owned s ++ latched s ++ held).contains h

/-- A proposed answer, kept within R54 item 1: BUSY, always allowed (R54 item 2), in place of an
answer no pool gives (log 6). -/
def lawful (held : List Handle) (s : State) (a : PoolAnswer) : PoolAnswer :=
  if legalAnswer s held a then a else .busy

/-- The answers `pool[d]` proposes next. -/
def poolList (d : Dir) (s : State) : List PoolAnswer :=
  match d with
  | .rx => s.rxPool
  | .tx => s.txPool

/-- The state with `pool[d]`'s next answers replaced. -/
def setPoolList (d : Dir) (l : List PoolAnswer) (s : State) : State :=
  match d with
  | .rx => { s with rxPool := l }
  | .tx => { s with txPool := l }

/-- What `pool[d]` answers next: the listed proposal or else a free value, kept lawful. -/
def nextAnswer (d : Dir) (held : List Handle) (s : State) : PoolAnswer :=
  match poolList d s with
  | a :: _ => lawful held s a
  | [] => lawful held s (Config.poolDraw s.draws)

/-- The proposal is used up. -/
def spendAnswer (d : Dir) (s : State) : State :=
  match poolList d s with
  | _ :: l => setPoolList d l s
  | [] => { s with draws := s.draws + 1 }

/-- `ask pool[d].alloc()` (00_scope.md R10, 10_state.md R51): emits the call and takes the
environment's answer. -/
def ask (d : Dir) (held : List Handle) (s : State) : PoolAnswer × State :=
  (nextAnswer d held s,
    record (.alloc d (nextAnswer d held s)) (emit (.poolAlloc d) (spendAnswer d s)))

/-! ### Registers of a stream -/

/-- `state[d] <- q`. -/
def setState (d : Dir) (q : StreamState) (s : State) : State :=
  s.upd d fun t => { t with state := q }

/-- `active[d] <- b`. -/
def setActive (d : Dir) (b : Block) (s : State) : State :=
  s.upd d fun t => { t with active := b }

/-- `armed[d] <- v`. -/
def setArmed (d : Dir) (v : Bool) (s : State) : State :=
  s.upd d fun t => { t with armed := v }

/-- `fault_cause[d] <- c`. -/
def setCause (d : Dir) (c : FaultCause) (s : State) : State :=
  s.upd d fun t => { t with faultCause := c }

/-- `cfg[d] <- c`. -/
def setCfg (d : Dir) (c : Cfg) (s : State) : State :=
  s.upd d fun t => { t with cfg := c }

/-- `overrun <- 0` if `d` is RX, `underrun <- 0` if `d` is TX (41_trigger.md R179). -/
def clearLoss (d : Dir) (s : State) : State :=
  match d with
  | .rx => { s with overrun := false }
  | .tx => { s with underrun := false }

/-- `last_block_flag <- 0` if `d` is TX (R171, R172). -/
def clearLast (d : Dir) (s : State) : State :=
  match d with
  | .rx => s
  | .tx => { s with lastBlockFlag := false }

/-! ### The Block Queue -/

/-- The index after `i` (40_queue_flow.md R145). -/
def nextIndex (d : Dir) (i : Nat) (s : State) : Nat := (i + 1) % (s.qcap d + 1)

/-- `Push(d, b)` (R141); `none` is Full. -/
def push (d : Dir) (b : Block) (s : State) : Option State :=
  if nextIndex d (s.stream d).head s = (s.stream d).tail then none
  else
    some ((memWrite d (s.stream d).head b s).upd d fun t =>
      { t with head := nextIndex d (s.stream d).head s })

/-- `Pop(d)` (R142); `none` is Empty. -/
def pop (d : Dir) (s : State) : Option (Block × State) :=
  if (s.stream d).head = (s.stream d).tail then none
  else
    some (memRead d (s.stream d).tail s,
      s.upd d fun t => { t with tail := nextIndex d (s.stream d).tail s })

/-- At most `n` turns of the loop of `DropQueue(d)` (R143). -/
def dropLoop (d : Dir) : Nat → State → State
  | 0, s => s
  | n + 1, s =>
    match pop d s with
    | none => s
    | some (b, s1) => dropLoop d n (emit (.poolFree d b.h) s1)

/-- `DropQueue(d)` (R143): "The loop runs at most QCAP[d] times". -/
def dropQueue (d : Dir) (s : State) : State := dropLoop d (s.qcap d) s

/-! ### The flow-control counter -/

/-- `Give(d)` (R148). -/
def give (d : Dir) (s : State) : State :=
  s.upd d fun t => { t with giveCnt := (t.giveCnt + 1) % flowMod d s }

/-- `Take(d)` (R149). -/
def take (d : Dir) (s : State) : State :=
  s.upd d fun t => { t with takeCnt := (t.takeCnt + 1) % flowMod d s }

/-- RD channel back to IDLE with its timer 0 (10_state.md R37). -/
def rdIdle (s : State) : State := { s with rdPhase := .idle, rdTimer := 0 }

/-- WR channel back to IDLE with its timer and latched operands cleared (10_state.md R38). -/
def wrIdle (s : State) : State :=
  { s with wrPhase := .idle, wrTimer := 0, wrH := NULL, wrSz := 0 }

/-- The second half of `FlowReset(d)`: ends the wait on stream `d`, if there is one, with TIMEOUT
(R152). -/
def endWait (d : Dir) (s : State) : State :=
  match d with
  | .rx => if s.rdPhase = .wait then rdIdle (respond .rd .timeout s) else s
  | .tx => if s.wrPhase = .wait then wrIdle (respond .wr .timeout s) else s

/-- `FlowReset(d)` (R152). -/
def flowReset (d : Dir) (s : State) : State :=
  endWait d (s.upd d fun t => { t with giveCnt := 0, takeCnt := 0, giveView := 0 })

/-- `AbortWrite()` (43_read_write.md R250). -/
def abortWrite (s : State) : State :=
  if s.wrPhase = .wait then wrIdle (respond .wr .invalidState s) else s

/-! ### Arm, Disable, StopStream -/

/-- The `dma.configure` of `Arm(d, h)` and, for TX, the cache clean before it (41_trigger.md
R171). -/
def armCalls (d : Dir) (h : Handle) (c : Cfg) (s : State) : State :=
  match d with
  | .rx => emit (.dmaConfigure .rx .periphDr (.block h) c.blockSize c.wordSize) s
  | .tx =>
    emit (.dmaConfigure .tx (.block h) .periphDr c.blockSize c.wordSize)
      (emit (.cacheClean h c.blockSize) s)

/-- `Arm(d, h)` (R171). -/
def arm (d : Dir) (h : Handle) (s : State) : State :=
  let c := (s.stream d).cfg
  let s1 := setActive d { h := h, sz := c.blockSize } s
  let s2 := emit (.dmaStart d) (armCalls d h c s1)
  let s3 := emit (.dmareqEnable d) (emit (.errirqEnable d) (setArmed d true s2))
  clearLast d (clearLoss d s3)

/-- The three disarm calls that open `Disable(d)` (R172). -/
def disarmCalls (d : Dir) (s : State) : State :=
  emit (.dmaStop d) (emit (.errirqDisable d) (emit (.dmareqDisable d) s))

/-- Free the active Block unless there is none or it is the filler (R172). -/
def freeActive (d : Dir) (s : State) : State :=
  if (s.stream d).active.h ≠ NULL ∧ (s.stream d).active.h ≠ s.par.filler then
    emit (.poolFree d (s.stream d).active.h) s
  else s

/-- `periph.disable()` if the other stream is idle (R172). -/
def periphOff (d : Dir) (s : State) : State :=
  if (s.stream d.other).armed = false then
    { emit .periphDisable s with periphEnabled := false }
  else s

/-- `Disable(d)` (R172). -/
def disable (d : Dir) (s : State) : State :=
  let s1 := freeActive d (disarmCalls d s)
  let s2 := periphOff d (setActive d Block.null s1)
  clearLast d (setArmed d false s2)

/-- `StopStream(d)` (R173). -/
def stopStream (d : Dir) (s : State) : State :=
  setState d .ready (setCause d .none (flowReset d (dropQueue d (disable d s))))

/-- What PREPARE does to one stream (R179): the return from ERROR. -/
def prepareOne (d : Dir) (s : State) : State :=
  setState d .ready (clearLoss d (setCause d .none (flowReset d (dropQueue d s))))

/-- The allocations of START (R174): for each target in turn ask the pool; on BUSY give back what
was obtained and answer `none`. `got` is what was obtained so far. -/
def allocAll : List Dir → List (Dir × Handle) → State → Option (List (Dir × Handle)) × State
  | [], got, s => (some got, s)
  | d :: T, got, s =>
    match ask d (got.map fun p => p.2) s with
    | (.busy, s1) => (none, got.foldl (fun t p => emit (.poolFree p.1 p.2) t) s1)
    | (.block h, s1) => allocAll T (got ++ [(d, h)]) s1

/-- `periph.enable()` if the peripheral is off (R174). -/
def periphOn (s : State) : State :=
  if s.periphEnabled = false then { emit .periphEnable s with periphEnabled := true } else s

/-! ### Faults -/

/-- `FaultOne(d, cause)` (60_exceptions.md R295): the one way into ERROR. -/
def faultOne (d : Dir) (c : FaultCause) (s : State) : State :=
  disable d (setCause d c (setState d .error s))

/-- A stream that a full-duplex fault of the other one forces to ERROR (R296). -/
def faultable (q : StreamState) : Bool := decide (q = .ready ∨ q = .running ∨ q = .stopping)

/-- `FaultOne(d, PEER)` if the Device is full duplex and stream `d` can fault (R296,
42_completion.md R220). -/
def couple (d : Dir) (s : State) : State :=
  if s.fullDuplex = true ∧ faultable (s.stream d).state = true then faultOne d .peer s else s

/-- `Fault(d, cause)` (R296). -/
def fault (d : Dir) (c : FaultCause) (s : State) : State := couple d.other (faultOne d c s)

/-! ### Acceptance and assertions -/

/-- The channel is idle (30_encoding.md R110). The CMD channel always is. -/
def channelIdle (ch : Channel) (s : State) : Bool :=
  match ch with
  | .cmd => true
  | .rd => decide (s.rdPhase = .idle)
  | .wr => decide (s.wrPhase = .idle)

/-- A command held off at the port: nothing happens and it stays presented (R110,
93_implementation_defined.md U12; log 14). -/
def heldOff (i : Instr) (s : State) : State :=
  { s with pending := .command (encode i) :: s.pending }

/-- The answer to an illegal command word (R108, R109): no other effect. -/
def refuseWord (ch : Channel) (s : State) : State := respond ch .invalidArgument s

/-- The assertions on stream `d` (93_implementation_defined.md U7, 20_memory.md R72; log 9). -/
def assertStream (d : Dir) (s : State) : Option Fault :=
  if s.qcap d < (s.stream d).head ∨ s.qcap d < (s.stream d).tail then some (.indexOutOfRange d)
  else if s.qcap d < flowTrue d s then some (.flowOutOfRange d)
  else none

/-- The first assertion that fails. -/
def assertAll (s : State) : Option Fault :=
  match assertStream .rx s with
  | some f => some f
  | none => assertStream .tx s

end Sys2Proof.Machine
end

