-- ==== Sys2Proof/Machine/Completion.lean ====
section
/-! DEFINITION. The B-port events RX_DONE, TX_DONE and PERIPH_FAULT (42_completion.md R211 to
R221). -/

namespace Sys2Proof.Machine

/-- The completed RX Block and its push (R211 (c), (d)). The completed Block is freed when the
queue is full, and then either dropped under the policy of R212 or the fault OVERRUN. `k` is what
follows in the handler when no fault was raised. -/
def rxDeliver (done : Block) (k : State → State) (s : State) : State :=
  match push .rx done s with
  | some s1 => k (give .rx s1)
  | none =>
    let s1 := emit (.poolFree .rx done.h) s
    if dropOnOverrun s then k { s1 with overrun := true } else fault .rx .overrun s1

/-- RX_DONE in STOPPING (R213). -/
def rxDoneStopping (s : State) : State :=
  rxDeliver { h := s.rx.active.h, sz := s.rx.cfg.blockSize }
    (fun t => disable .rx (setState .rx .ready t)) (setActive .rx Block.null s)

/-- RX_DONE with status 0 outside STOPPING (R211 (a) to (d)). -/
def rxDoneRunning (s : State) : State :=
  match ask .rx [] s with
  | (.busy, s1) => fault .rx .allocFail s1
  | (.block nb, s1) =>
    let bs := s1.rx.cfg.blockSize
    let s2 := setActive .rx { h := nb, sz := bs } s1
    let s3 := emit (.dmaReload .rx .periphDr (.block nb) bs) s2
    rxDeliver { h := s1.rx.active.h, sz := bs } id s3

/-- RX_DONE (R211). -/
def execRxDone (status : BitVec 8) (s : State) : Host.Outcome State Fault Refusal :=
  if s.rx.armed = false then .next s
  else if status ≠ 0#8 then .next (fault .rx .dmaError s)
  else if s.rx.state = .stopping then .next (rxDoneStopping s)
  else .next (rxDoneRunning s)

/-- The filler copy under the repeat policy (R216). -/
def copyFiller (b : Block) (s : State) : State :=
  if repeatOnUnderrun s then
    { emit (.fillerCopy b.h b.sz) s with fillerSize := b.sz, fillerBuf := b }
  else s

/-- The sent TX Block goes back to its pool, unless it was the filler (R215). -/
def releaseSent (b : Block) (s : State) : State :=
  if b.h ≠ s.par.filler then emit (.poolFree .tx b.h) (copyFiller b s) else s

/-- The end of a drain (R218): READY and disabled. -/
def drainEnd (s : State) : State := disable .tx (setState .tx .ready s)

/-- Hand a Block to the TX DMA channel (R215, R219). -/
def txSend (b : Block) (s : State) : State :=
  setActive .tx b
    (emit (.dmaReload .tx (.block b.h) .periphDr b.sz) (emit (.cacheClean b.h b.sz) s))

/-- The queue was found empty at a TX completion (R215, R217, R218). -/
def txEmpty (s : State) : State :=
  if s.tx.state = .stopping then drainEnd s
  else if repeatOnUnderrun s then
    txSend { h := s.par.filler, sz := s.fillerSize } { s with underrun := true }
  else fault .tx .underrun s

/-- In STOPPING, the pop that empties the queue marks the last Block (R215, R218). -/
def markLast (s : State) : State :=
  if s.tx.state = .stopping ∧ occ .tx s = 0 then { s with lastBlockFlag := true } else s

/-- The next real Block was popped (R215). -/
def txNext (b : Block) (s : State) : State :=
  txSend b (markLast (give .tx { s with underrun := false }))

/-- TX_DONE with status 0 (R215). -/
def txDoneOk (s : State) : State :=
  let s1 := setActive .tx Block.null (releaseSent s.tx.active s)
  if s1.lastBlockFlag then drainEnd s1
  else
    match pop .tx s1 with
    | none => txEmpty s1
    | some (b, s2) => txNext b s2

/-- TX_DONE (R215). -/
def execTxDone (status : BitVec 8) (s : State) : Host.Outcome State Fault Refusal :=
  if s.tx.armed = false then .next s
  else if status ≠ 0#8 then .next (fault .tx .dmaError s)
  else .next (txDoneOk s)

/-- `FaultOne(d, PERIPH)` if the stream was armed when the event was taken (R220). -/
def periphOne (d : Dir) (wasArmed : Bool) (s : State) : State :=
  if wasArmed then faultOne d .periph s else s

/-- PERIPH_FAULT (R220). -/
def execPeriphFault (flags : BitVec 3) (s : State) : Host.Outcome State Fault Refusal :=
  if flags = 0#3 then .next s
  else
    let s1 := emit .clearErrors s
    if s.rx.armed = false ∧ s.tx.armed = false then .next s1
    else
      let s2 := periphOne .tx s.tx.armed (periphOne .rx s.rx.armed s1)
      .next (couple .tx (couple .rx s2))

end Sys2Proof.Machine
end

