-- ==== Sys2Proof/Machine/Control.lean ====
section
/-! DEFINITION. CONFIGURE, STATUS and TEARDOWN (44_configure_status.md R271 to R275). -/

namespace Sys2Proof.Machine

/-- A state in which CONFIGURE is legal (R271). -/
def configurable (q : StreamState) : Bool := decide (q = .notReady ∨ q = .ready)

/-- What a successful CONFIGURE stores and where it leaves the state (R271): with `freq = 0` the
direction is disabled and nothing of the record is kept. -/
def storeCfg (d : Dir) (c : Cfg) (s : State) : State :=
  if c.freq = 0#32 then setState d .notReady (setCfg d Cfg.zero s)
  else setState d .ready (setCfg d c s)

/-- What a successful CONFIGURE does to one stream (R271). -/
def configureOne (d : Dir) (c : Cfg) (s : State) : State :=
  storeCfg d c (clearLoss d (setCause d .none (flowReset d (dropQueue d s))))

/-- CONFIGURE (R271): the state is checked before the record (R275). -/
def execConfigure (dir : DirSel) (w0 w1 w2 w3 w4 : Word) (s : State) :
    Host.Outcome State Fault Refusal :=
  let T := addressed dir
  let c := cfgOfWords w0 w1 w2 w3 w4
  if T.all fun d => configurable (s.stream d).state then
    if c.freq ≠ 0#32 ∧ validRecord s.par T w1 w3 c = false then
      .next (respond .cmd .invalidArgument s)
    else .next (respond .cmd .ok (T.foldl (fun t d => configureOne d c t) s))
  else .next (respond .cmd .invalidState s)

/-- STATUS (R273). BOTH names no stream and is answered as the illegal word it would be
(30_encoding.md R109, log 15). -/
def execStatus (dir : DirSel) (s : State) : Host.Outcome State Fault Refusal :=
  match dir with
  | .rx => .next (answerStatus (statusWord .rx s) s)
  | .tx => .next (answerStatus (statusWord .tx s) s)
  | .both => .next (refuseWord .cmd s)

/-- What TEARDOWN does to one stream (R274; log 21). -/
def teardownOne (d : Dir) (s : State) : State :=
  let s1 :=
    if (s.stream d).state ≠ .notReady then flowReset d (dropQueue d (disable d s)) else s
  setState d .notReady (setCfg d Cfg.zero (setCause d .none s1))

/-- TEARDOWN (R274). -/
def execTeardown (s : State) : Host.Outcome State Fault Refusal :=
  let s1 := teardownOne .tx (teardownOne .rx s)
  .next (respond .cmd .ok { s1 with overrun := false, underrun := false, fillerSize := 0 })

end Sys2Proof.Machine
end

