-- ==== Sys2Proof/Machine/Data.lean ====
section
/-! DEFINITION. READ and WRITE and the steps that complete them (43_read_write.md R240 to R251), and
SYNC (40_queue_flow.md R151). -/

namespace Sys2Proof.Machine

/-- READ, the accept step (R241). On a busy channel it is held off (30_encoding.md R110). -/
def execRead (s : State) : Host.Outcome State Fault Refusal :=
  if channelIdle .rd s then
    if s.rx.state = .notReady ∨ s.rx.state = .error then .next (respond .rd .invalidState s)
    else .next { s with rdTimer := s.rx.cfg.timeout, rdPhase := .wait }
  else .next (heldOff .read s)

/-- WRITE, the accept step (R246): the state is checked before the operands. The handle is what the
BLK_W wires carry of `blk` (00_scope.md R7, 30_encoding.md R107; DEDUCED, log 1). On a busy channel it
is held off (R110). -/
def execWrite (blk : Handle) (size : Size) (s : State) : Host.Outcome State Fault Refusal :=
  if channelIdle .wr s then
    if s.tx.state ≠ .ready ∧ s.tx.state ≠ .running then .next (respond .wr .invalidState s)
    else if writeArgsBad (blk.wired s.par.blkW) size s then .next (respond .wr .invalidArgument s)
    else
      .next { s with
        wrH := blk.wired s.par.blkW, wrSz := size, wrTimer := s.tx.cfg.timeout,
        wrPhase := .wait }
  else .next (heldOff (.write blk size) s)

/-- The application becomes the owner of a Block (10_state.md R57, log 23). -/
def appTakes (h : Handle) (s : State) : State := { s with app := s.app ++ [h] }

/-- A Block of the application passes to another owner (R57). -/
def appGives (h : Handle) (s : State) : State := { s with app := s.app.erase h }

/-- RD_GRANT (R242). The application becomes the owner of the Block it is answered (R57). -/
def rdGrant (s : State) : State :=
  match pop .rx (take .rx s) with
  | some (b, s1) => answerBlock b (appTakes b.h (rdIdle s1))
  | none => respond .rd .queueEmpty (rdIdle (take .rx s))

/-- RD_TIMEOUT (R243). -/
def rdTimeout (s : State) : State := respond .rd .timeout { s with rdPhase := .idle }

/-- WR_GRANT (R247). The Block that is queued is no longer the application's (R57). -/
def wrGrant (s : State) : State :=
  match push .tx { h := s.wrH, sz := s.wrSz } (take .tx s) with
  | some s1 => respond .wr .ok (wrIdle (appGives s.wrH s1))
  | none => respond .wr .resourceExhausted (wrIdle (take .tx s))

/-- WR_TIMEOUT (R248). -/
def wrTimeout (s : State) : State :=
  respond .wr .timeout { s with wrPhase := .idle, wrH := NULL, wrSz := 0 }

/-- One TICK of a wait timer (R251): it stops at 0. -/
def tickTimer (p : Phase) (t : Ticks) : Ticks := if p = .wait ∧ 0#32 < t then t - 1#32 else t

/-- TICK (R251). -/
def tick (s : State) : State :=
  { s with rdTimer := tickTimer s.rdPhase s.rdTimer, wrTimer := tickTimer s.wrPhase s.wrTimer }

/-- SYNC(d) with choice `j` (40_queue_flow.md R151): the new view is what the gray-coded crossing
delivers of the counter value `j` further on (20_memory.md R86, R87). -/
def sync (d : Dir) (j : Nat) (s : State) : State :=
  s.upd d fun t =>
    { t with giveView := cross (cntW (s.qcap d)) ((t.giveView + j) % flowMod d s) }

end Sys2Proof.Machine
end

