-- ==== Sys2Proof/Machine/Trigger.lean ====
section
/-! DEFINITION. The five TRIGGER commands (41_trigger.md R174 to R180). Each is one step on the CMD
channel and checks every target before it changes any. -/

namespace Sys2Proof.Machine

/-- TRIGGER.START (R174). -/
def execTriggerStart (dir : DirSel) (s : State) : Host.Outcome State Fault Refusal :=
  let T := targets dir s
  if allLegal .start T s then
    match allocAll T [] s with
    | (none, s1) => .next (respond .cmd .resourceExhausted s1)
    | (some got, s1) =>
      let s2 := periphOn (got.foldl (fun t p => arm p.1 p.2 t) s1)
      .next (respond .cmd .ok (T.foldl (fun t d => setState d .running t) s2))
  else .next (respond .cmd .invalidState s)

/-- TRIGGER.STOP (R175). -/
def execTriggerStop (dir : DirSel) (s : State) : Host.Outcome State Fault Refusal :=
  let T := targets dir s
  if allLegal .stop T s then
    .next (respond .cmd .ok (T.foldl (fun t d => stopStream d t) s))
  else .next (respond .cmd .invalidState s)

/-- The TX half of DRAIN (R177): a waiting WRITE is ended, and the stream plays out its queue. -/
def drainTx (s : State) : State :=
  let s1 := setState .tx .stopping (abortWrite s)
  { s1 with lastBlockFlag := decide (occ .tx s1 = 0) }

/-- What DRAIN does to one target (R177): RX stops and drops, TX drains. -/
def drainOne (d : Dir) (s : State) : State :=
  match d with
  | .rx => stopStream .rx s
  | .tx => drainTx s

/-- TRIGGER.DRAIN (R177). -/
def execTriggerDrain (dir : DirSel) (s : State) : Host.Outcome State Fault Refusal :=
  let T := targets dir s
  if allLegal .drain T s then
    .next (respond .cmd .ok (T.foldl (fun t d => drainOne d t) s))
  else .next (respond .cmd .invalidState s)

/-- TRIGGER.DROP (R178). -/
def execTriggerDrop (dir : DirSel) (s : State) : Host.Outcome State Fault Refusal :=
  let T := targets dir s
  if allLegal .drop T s then
    .next (respond .cmd .ok (T.foldl (fun t d => stopStream d t) s))
  else .next (respond .cmd .invalidState s)

/-- TRIGGER.PREPARE (R179). -/
def execTriggerPrepare (dir : DirSel) (s : State) : Host.Outcome State Fault Refusal :=
  let T := targets dir s
  if allLegal .prepare T s then
    .next (respond .cmd .ok (T.foldl (fun t d => prepareOne d t) s))
  else .next (respond .cmd .invalidState s)

end Sys2Proof.Machine
end

