-- ==== Sys2Proof/Machine/Dispatch.lean ====
section
/-! DEFINITION. The meaning of each operation of spec/opcode_table.json. -/

namespace Sys2Proof.Machine

def exec (i : Instr) (s : State) : Host.Outcome State Fault Refusal :=
  match i with
  | .configure dir w0 w1 w2 w3 w4 => Sys2Proof.Machine.execConfigure dir w0 w1 w2 w3 w4 s
  | .triggerStart dir => Sys2Proof.Machine.execTriggerStart dir s
  | .triggerStop dir => Sys2Proof.Machine.execTriggerStop dir s
  | .triggerDrain dir => Sys2Proof.Machine.execTriggerDrain dir s
  | .triggerDrop dir => Sys2Proof.Machine.execTriggerDrop dir s
  | .triggerPrepare dir => Sys2Proof.Machine.execTriggerPrepare dir s
  | .status dir => Sys2Proof.Machine.execStatus dir s
  | .read => Sys2Proof.Machine.execRead s
  | .write blk size => Sys2Proof.Machine.execWrite blk size s
  | .teardown => Sys2Proof.Machine.execTeardown s
  | .rxDone status => Sys2Proof.Machine.execRxDone status s
  | .txDone status => Sys2Proof.Machine.execTxDone status s
  | .periphFault flags => Sys2Proof.Machine.execPeriphFault flags s

end Sys2Proof.Machine
end

