-- ==== Sys2Proof/Machine/Moves.lean ====
section
/-! DEFINITION. The atomic steps of the machine (00_scope.md R11, 30_encoding.md R117): when a move is
enabled, what it does, and which move is next in the total order (20_memory.md R80, R81, R90). -/

namespace Sys2Proof.Machine

/-- The move may be taken now: a command if its channel is idle (30_encoding.md R110), an event,
a TICK and the reset input always, the completing steps by 43_read_write.md R242, R243, R247, R248,
SYNC by 40_queue_flow.md R151, and the application's own dealings with the pools when the ownership
rules allow them (10_state.md R54, R57, 43_read_write.md R242, log 23). -/
def enabled (m : Stimulus) (s : State) : Bool :=
  match m with
  | .command b => channelIdle (route b.cw) s
  | .event _ => true
  | .rdGrant => decide (s.rdPhase = .wait) && decide (0 < flowView .rx s)
  | .rdTimeout =>
    decide (s.rdPhase = .wait) && decide (s.rdTimer = 0#32) && decide (flowView .rx s = 0)
  | .wrGrant => decide (s.wrPhase = .wait) && decide (0 < flowView .tx s)
  | .wrTimeout =>
    decide (s.wrPhase = .wait) && decide (s.wrTimer = 0#32) && decide (flowView .tx s = 0)
  | .tick => true
  | .appAlloc h => legalAnswer s [] (.block h)
  | .appFree h => s.app.contains h && !(latched s).contains h
  | .sync d j => decide (1 ≤ j) && decide (j ≤ viewLag d s)
  | .reset => true

/-- The first enabled move of a list, and the list without it: what is held off stays (log 4). -/
def pick (s : State) : List Stimulus → Option (Stimulus × List Stimulus)
  | [] => none
  | m :: l =>
    if enabled m s then some (m, l)
    else
      match pick s l with
      | none => none
      | some (x, r) => some (x, m :: r)

/-- The synchroniser's own choice of `j`, between 1 and the lag (R151, log 7). -/
def drawnJ (d : Dir) (s : State) : Nat := 1 + Config.syncDraw s.draws % viewLag d s

/-- The step the hardware takes by itself when no presented move is enabled (30_encoding.md R117):
the grants and timeouts in the arbiter's order (20_memory.md R81), then the synchronisers (log 5). -/
def ownMove (s : State) : Option Stimulus :=
  if enabled .rdGrant s then some .rdGrant
  else if enabled .rdTimeout s then some .rdTimeout
  else if enabled .wrGrant s then some .wrGrant
  else if enabled .wrTimeout s then some .wrTimeout
  else if 0 < viewLag .rx s then some (.sync .rx (drawnJ .rx s))
  else if 0 < viewLag .tx s then some (.sync .tx (drawnJ .tx s))
  else none

/-- The reset input (70_reset_and_hazards.md R330 to R332): every register takes its reset value,
no call is emitted and no waiter is answered. The environment's own data stays (log 20). -/
def hwReset (s : State) : State :=
  { State.resetWith s.par with
    pending := s.pending, rxPool := s.rxPool, txPool := s.txPool, draws := s.draws, app := s.app }

/-- The entries an operation made, in the order of 20_memory.md R94: the answers it consumed, the
calls it emitted, its responses. -/
def byKind (l : List Event) : List Event :=
  (answersOf l).map (fun p => Event.alloc p.1 p.2) ++ (callsOf l).map .call ++ (respsOf l).map .resp

/-- The outcome `o` of an operation run in `s`, its contribution to the history put in the order of
R94 (log 11). -/
def contribute (s : State) (o : Host.Outcome State Fault Refusal) :
    Host.Outcome State Fault Refusal :=
  match o with
  | .next t => .next { t with log := s.log ++ byKind (t.log.drop s.log.length) }
  | .fault f => .fault f
  | .refused r => .refused r

/-- A command word is decoded and run, or answered INVALID_ARGUMENT on the channel it is routed to
(R108). -/
def runCommand (b : Bundle) (s : State) : Host.Outcome State Fault Refusal :=
  match decodeCommand b with
  | .ok i => contribute s (exec i s)
  | .error _ => .next (refuseWord (route b.cw) s)

/-- An event word is decoded and serviced, or discarded (R116). -/
def runEvent (ew : Word) (s : State) : Host.Outcome State Fault Refusal :=
  match decodeEvent ew with
  | .ok i => contribute s (exec i s)
  | .error _ => .next s

/-- What an enabled move does. -/
def runMove (m : Stimulus) (s : State) : Host.Outcome State Fault Refusal :=
  match m with
  | .command b => runCommand b s
  | .event ew => runEvent ew s
  | .rdGrant => .next (rdGrant s)
  | .rdTimeout => .next (rdTimeout s)
  | .wrGrant => .next (wrGrant s)
  | .wrTimeout => .next (wrTimeout s)
  | .tick => .next (tick s)
  | .appAlloc h => .next (appTakes h s)
  | .appFree h => .next (appGives h s)
  | .sync d j => .next (sync d j s)
  | .reset => .next (hwReset s)

/-- The state a presented move runs in: it is no longer pending and it is in the history. -/
def taken (m : Stimulus) (rest : List Stimulus) (s : State) : State :=
  record (.op m) { s with pending := rest }

/-- The state the hardware's own move runs in. -/
def ownTaken (m : Stimulus) (s : State) : State := record (.op m) { s with draws := s.draws + 1 }

/-- One atomic step of a machine whose assertions hold: the first enabled presented move, else the
hardware's own, else it waits (70_reset_and_hazards.md R330). -/
def advance (s : State) : Host.Outcome State Fault Refusal :=
  match pick s s.pending with
  | some (m, rest) => runMove m (taken m rest s)
  | none =>
    match ownMove s with
    | some m => runMove m (ownTaken m s)
    | none => .next s

/-- How an operation is presented: on its port (30_encoding.md R104). -/
def present (p : Port) (b : Bundle) : Stimulus :=
  match p with
  | .a => .command b
  | .b => .event b.cw

end Sys2Proof.Machine
end

