-- ==== Sys2Proof/Machine/Step.lean ====
section
/-! DEFINITION. One step of AFBQ, and the placing of an operation as the next one. -/

namespace Sys2Proof.Machine

/-- One atomic step (20_memory.md R80). The model's assertions are checked first
(93_implementation_defined.md U7, log 9). -/
def step (s : State) : Host.Outcome State Fault Refusal :=
  match assertAll s with
  | some f => .fault f
  | none => advance s

/-- The state with the operation whose opcode-table bits are `w` presented next, on the port it
belongs to (log 8). -/
def State.withFetchWord (s : State) (nbits w : Nat) : State :=
  { s with
    pending :=
      present (portOfTable (bundleOfTable nbits w)) (bundleOfTable nbits w) :: s.pending }

end Sys2Proof.Machine
end

