-- ==== Sys2Proof/Safety.lean ====
section
/-! DEFINITION. What a good state of the Device is: the invariants of 10_state.md R41, single
ownership (R57), and the counts of Blocks owned, obtained and given back
(95_test_vectors.md E1, E5); and the calls and answers of the shared procedures as lists. -/

namespace Sys2Proof.Machine

/-- A handle that names a Block of a pool: a handle of the Device, neither NULL nor FILLER
(10_state.md R51, 00_scope.md R7). -/
abbrev PoolHandle (s : State) (h : Handle) : Prop :=
  h ≠ NULL ∧ h ≠ s.par.filler ∧ h.fits s.par.blkW

/-- The bounds of the registers of stream `d`: the indices (10_state.md R29), the counters (R30) and
the slots (R28) with their canonical form. -/
structure StreamBounds (d : Dir) (s : State) : Prop where
  head_le : (s.stream d).head ≤ s.qcap d
  tail_le : (s.stream d).tail ≤ s.qcap d
  give_lt : (s.stream d).giveCnt < flowMod d s
  take_lt : (s.stream d).takeCnt < flowMod d s
  view_lt : (s.stream d).giveView < flowMod d s
  slots_wf : Memory.wf (s.stream d).slots
  slots_le : ∀ c ∈ (s.stream d).slots, c.1 ≤ s.qcap d

/-- 10_state.md R41 items 1, 2, 4 and 5 for stream `d`, with what they rest on: the bounds, and that
every queued handle is a pool's (42_completion.md R217). -/
structure StreamInv (d : Dir) (s : State) : Prop where
  bounds : StreamBounds d s
  /-- Item 1. -/
  armed_iff : (s.stream d).armed = true ↔
    (s.stream d).state = .running ∨ (s.stream d).state = .stopping
  /-- Item 2. -/
  active_iff : (s.stream d).active.h ≠ NULL ↔ (s.stream d).armed = true
  /-- Disable leaves `(NULL, 0)` (41_trigger.md R172). -/
  inactive : (s.stream d).armed = false → (s.stream d).active = Block.null
  /-- `active_h[d]` has BLK_W bits (R23). -/
  active_fits : (s.stream d).active.h.fits s.par.blkW
  /-- Item 4. -/
  view_le : flowView d s ≤ flowTrue d s
  flow_le : flowTrue d s ≤ s.qcap d
  /-- Item 5; and the counters are as FlowReset left them (40_queue_flow.md R152). -/
  off : (s.stream d).state = .notReady → occ d s = 0 ∧ (s.stream d).armed = false ∧
    (s.stream d).giveCnt = 0 ∧ (s.stream d).takeCnt = 0 ∧ (s.stream d).giveView = 0
  queued_pool : ∀ b ∈ queued d s, PoolHandle s b.h

/-- The RX side of the invariants: R41 items 1 to 5 and 9, and the RD channel (10_state.md R37). -/
structure RxInv (s : State) : Prop where
  stream : StreamInv .rx s
  /-- Item 3. -/
  flow : flowTrue .rx s = occ .rx s
  /-- Item 9. -/
  not_stopping : s.rx.state ≠ .stopping
  /-- The filler is a TX buffer (R27). -/
  active : s.rx.active.h ≠ s.par.filler
  /-- R37. -/
  idle : s.rdPhase = .idle → s.rdTimer = 0#32
  /-- What moves RX to NOT_READY ends the wait (43_read_write.md R244). -/
  wait : s.rdPhase = .wait → s.rx.state ≠ .notReady

/-- The TX side: R41 items 1 to 5 and 8, and the WR channel (10_state.md R38). -/
structure TxInv (s : State) : Prop where
  stream : StreamInv .tx s
  /-- Item 3. -/
  flow : flowTrue .tx s + occ .tx s = s.qcap .tx
  /-- Item 8. -/
  last : s.lastBlockFlag = true → s.tx.state = .stopping
  /-- The Block under DMA is the last exactly when the queue is empty (42_completion.md R218). -/
  last_empty : s.tx.state = .stopping → (s.lastBlockFlag = true ↔ occ .tx s = 0)
  /-- R38. -/
  idle : s.wrPhase = .idle → s.wrTimer = 0#32 ∧ s.wrH = NULL ∧ s.wrSz = 0#32
  /-- The latched handle passed the check of WRITE (43_read_write.md R246), and what moves TX to
  NOT_READY or STOPPING ends the wait (R249, R250). -/
  wait : s.wrPhase = .wait →
    PoolHandle s s.wrH ∧ s.tx.state ≠ .notReady ∧ s.tx.state ≠ .stopping

/-- The invariants of 10_state.md R41 items 1 to 6, 8 and 9. -/
structure Inv (s : State) : Prop where
  par : s.par.ok
  rx : RxInv s
  tx : TxInv s
  /-- Item 6. -/
  periph : s.periphEnabled = true ↔ s.rx.armed = true ∨ s.tx.armed = true
  /-- R36: the register holds the strap. -/
  duplex : s.fullDuplex = s.par.fullDuplex

/-- A stored configuration that passed the checks of 44_configure_status.md R272 and enables its
direction. -/
structure CfgValid (p : Params) (c : Cfg) : Prop where
  freq : c.freq ≠ 0#32
  wordSize : c.wordSize = 16#6 ∨ c.wordSize = 24#6 ∨ c.wordSize = 32#6
  format : c.format ∈ p.formatLegal
  options : c.options.extractLsb' 4 4 = 0#4
  blockSize : c.blockSize ≠ 0#32

/-- What `cfg[d]` holds in each state: all zero in NOT_READY, a valid record otherwise
(44_configure_status.md R271, R272, R274); and the repeat policy needs the filler (R272 check 5). -/
structure CfgInv (s : State) : Prop where
  off : ∀ d, (s.stream d).state = .notReady → (s.stream d).cfg = Cfg.zero
  on : ∀ d, (s.stream d).state ≠ .notReady → CfgValid s.par (s.stream d).cfg
  filler : repeatOnUnderrun s = true → s.par.hasFiller = true

/-- `fault_cause[d]` is NONE exactly outside ERROR (60_exceptions.md R293, R295, R299). -/
def CauseInv (s : State) : Prop :=
  ∀ d, (s.stream d).faultCause ≠ .none ↔ (s.stream d).state = .error

/-! ### What the procedures write to the history, as lists -/

/-- The operand that names one stream. -/
def sel : Dir → DirSel
  | .rx => .rx
  | .tx => .tx

/-- A response without payload (30_encoding.md R112, R113). -/
def answered (ch : Channel) (code : Code) : Event :=
  .resp { ch := ch, code := code, blk := NULL, size := 0, sw := 0 }

/-- The frees of DropQueue (40_queue_flow.md R143). -/
def freesOf (d : Dir) (l : List Block) : List Event :=
  l.map fun b => Event.call (.poolFree d b.h)

/-- The answer that ends a wait on stream `d`, if there is one (R152). -/
def waitEvents (d : Dir) (s : State) : List Event :=
  match d with
  | .rx => if s.rdPhase = .wait then [answered .rd .timeout] else []
  | .tx => if s.wrPhase = .wait then [answered .wr .timeout] else []

/-- The calls of `Arm(d, h)` (41_trigger.md R171). -/
def armTrace (d : Dir) (h : Handle) (c : Cfg) : List Call :=
  (match d with
    | .rx => [.dmaConfigure .rx .periphDr (.block h) c.blockSize c.wordSize]
    | .tx => [.cacheClean h c.blockSize,
        .dmaConfigure .tx (.block h) .periphDr c.blockSize c.wordSize]) ++
  [.dmaStart d, .errirqEnable d, .dmareqEnable d]

/-- The calls of `Disable(d)` before it looks at the other stream (R172). -/
def disarmTrace (d : Dir) (s : State) : List Call :=
  [.dmareqDisable d, .errirqDisable d, .dmaStop d] ++
  (if (s.stream d).active.h = NULL ∨ (s.stream d).active.h = s.par.filler then []
    else [.poolFree d (s.stream d).active.h])

/-- The calls of `Disable(d)` (R172). -/
def disableTrace (d : Dir) (s : State) : List Call :=
  disarmTrace d s ++ (if (s.stream d.other).armed = false then [.periphDisable] else [])

/-! ### What the procedures leave in the registers -/

/-- A stream whose queue was dropped and whose flow counter was reset (40_queue_flow.md R143, R152),
with no fault cause. -/
def Stream.emptied (t : Stream) : Stream :=
  { t with tail := t.head, giveCnt := 0, takeCnt := 0, giveView := 0, faultCause := .none }

/-- A stream after Disable (41_trigger.md R172). -/
def Stream.disabled (t : Stream) : Stream := { t with active := Block.null, armed := false }

/-- A stream after its fault entry (60_exceptions.md R295). -/
def Stream.faulted (c : FaultCause) (t : Stream) : Stream :=
  { t.disabled with state := .error, faultCause := c }

/-- The data channels of the streams in `T` after FlowReset ended their waits (40_queue_flow.md
R152). -/
def freedChannels (T : List Dir) (s : State) : State :=
  { s with
    rdPhase := if .rx ∈ T then .idle else s.rdPhase,
    rdTimer := if .rx ∈ T ∧ s.rdPhase = .wait then 0 else s.rdTimer,
    wrPhase := if .tx ∈ T then .idle else s.wrPhase,
    wrTimer := if .tx ∈ T ∧ s.wrPhase = .wait then 0 else s.wrTimer,
    wrH := if .tx ∈ T ∧ s.wrPhase = .wait then NULL else s.wrH,
    wrSz := if .tx ∈ T ∧ s.wrPhase = .wait then 0 else s.wrSz }

/-- The history entries of dropping the queues of the streams in `T` (R143, R152). -/
def droppedEvents (T : List Dir) (s : State) : List Event :=
  T.flatMap fun d => freesOf d (queued d s) ++ waitEvents d s

/-- The completion event of stream `d` (30_encoding.md R115). -/
def doneOf (d : Dir) (status : BitVec 8) : Instr :=
  match d with
  | .rx => .rxDone status
  | .tx => .txDone status

/-- Everything that belongs to stream `d` alone is the same: its registers, its flags and its data
channel (10_state.md R21 to R33, R37, R38). -/
structure SideSame (d : Dir) (s t : State) : Prop where
  stream : t.stream d = s.stream d
  rx : d = .rx → t.overrun = s.overrun ∧ t.rdPhase = s.rdPhase ∧ t.rdTimer = s.rdTimer
  tx : d = .tx → t.lastBlockFlag = s.lastBlockFlag ∧ t.underrun = s.underrun ∧
    t.fillerSize = s.fillerSize ∧ t.fillerBuf = s.fillerBuf ∧ t.wrPhase = s.wrPhase ∧
    t.wrTimer = s.wrTimer ∧ t.wrH = s.wrH ∧ t.wrSz = s.wrSz

/-- The operation names stream `d` only (30_encoding.md R102, R104): its DIR operand is `d`, or it
works on `d` by its nature. TEARDOWN and PERIPH_FAULT name both. -/
def namesOnly (d : Dir) : Instr → Prop
  | .configure dir _ _ _ _ _ => dir = sel d
  | .triggerStart dir => dir = sel d
  | .triggerStop dir => dir = sel d
  | .triggerDrain dir => dir = sel d
  | .triggerDrop dir => dir = sel d
  | .triggerPrepare dir => dir = sel d
  | .status _ => True
  | .read => d = .rx
  | .write _ _ => d = .tx
  | .teardown => False
  | .rxDone _ => d = .rx
  | .txDone _ => d = .tx
  | .periphFault _ => False

/-- The commands that clear the loss flag of their streams: START, PREPARE, CONFIGURE and TEARDOWN
(10_state.md R25, R26). -/
def clearsLoss : Instr → Prop
  | .configure .. => True
  | .triggerStart _ => True
  | .triggerStop _ => False
  | .triggerDrain _ => False
  | .triggerDrop _ => False
  | .triggerPrepare _ => True
  | .status _ => False
  | .read => False
  | .write _ _ => False
  | .teardown => True
  | .rxDone _ => False
  | .txDone _ => False
  | .periphFault _ => False

/-- The state changes the table of 41_trigger.md R181 allows an operation on stream `d`, from `q` to
`q'`, on a Device whose `full_duplex` is `fd`; staying in `q` included, but for TEARDOWN. -/
def edge (fd : Bool) (i : Instr) (d : Dir) (q q' : StreamState) : Prop :=
  match i with
  | .configure .. =>
    q' = q ∨ ((q = .notReady ∨ q = .ready) ∧ (q' = .notReady ∨ q' = .ready))
  | .triggerStart _ => q' = q ∨ (q = .ready ∧ q' = .running)
  | .triggerStop _ => q' = q ∨ (q = .running ∧ q' = .ready)
  | .triggerDrain _ =>
    q' = q ∨ (q = .running ∧ ((d = .rx ∧ q' = .ready) ∨ (d = .tx ∧ q' = .stopping)))
  | .triggerDrop _ => q' = q ∨ (q ≠ .notReady ∧ q' = .ready)
  | .triggerPrepare _ => q' = q ∨ (q = .error ∧ q' = .ready)
  | .status _ => q' = q
  | .read => q' = q
  | .write _ _ => q' = q
  | .teardown => q' = .notReady
  | .rxDone _ =>
    q' = q ∨ (d = .rx ∧ (q = .running ∨ q = .stopping) ∧ q' = .error) ∨
    (d = .tx ∧ fd = true ∧ faultable q = true ∧ q' = .error)
  | .txDone _ =>
    q' = q ∨ (d = .tx ∧ (q = .running ∨ q = .stopping) ∧ q' = .error) ∨
    (d = .tx ∧ q = .stopping ∧ q' = .ready) ∨
    (d = .rx ∧ fd = true ∧ faultable q = true ∧ q' = .error)
  | .periphFault _ =>
    q' = q ∨ ((q = .running ∨ q = .stopping) ∧ q' = .error) ∨
    (fd = true ∧ q = .ready ∧ q' = .error)

/-! ### Runs -/

/-- An operation on one Block Queue. -/
inductive QueueOp where
  | push (b : Block)
  | pop
  deriving DecidableEq, Repr

/-- A run of queue operations on stream `d`: the Blocks Push accepted, the Blocks Pop returned, each
in order, and the state after. -/
def queueRun (d : Dir) : List QueueOp → State → List Block × List Block × State
  | [], s => ([], [], s)
  | .push b :: l, s =>
    match push d b s with
    | some s1 => (b :: (queueRun d l s1).1, (queueRun d l s1).2)
    | none => queueRun d l s
  | .pop :: l, s =>
    match pop d s with
    | some (b, s1) => ((queueRun d l s1).1, b :: (queueRun d l s1).2.1, (queueRun d l s1).2.2)
    | none => queueRun d l s

/-- Enabled moves taken one after another, each of them while channel `ch` waits. -/
def waitedRun (ch : Channel) : List Stimulus → State → Option State
  | [], s => some s
  | m :: l, s =>
    if channelIdle ch s = false ∧ enabled m s = true then
      match runMove m s with
      | .next t => waitedRun ch l t
      | .fault _ => none
      | .refused _ => none
    else none

/-- `n` successful TX completions, one after another. -/
def txDones : Nat → State → Option State
  | 0, s => some s
  | n + 1, s =>
    match exec (.txDone 0#8) s with
    | .next t => txDones n t
    | .fault _ => none
    | .refused _ => none

/-- The handle a call gives back to `pool[d]`. -/
def freedBy (d : Dir) : Call → Option Handle
  | .poolFree e h => if e = d then some h else none
  | _ => none

/-- The handles given back to `pool[d]` since reset, in order. -/
def freed (d : Dir) (s : State) : List Handle := (trace s).filterMap (freedBy d)

/-! ### Counting Blocks -/

/-- The handles stream `d` owns: queued, and under DMA unless that is the filler
(10_state.md R57, 95_test_vectors.md E5). -/
def ownedCount (d : Dir) (s : State) : Nat :=
  (queued d s).length +
    if (s.stream d).active.h ≠ NULL ∧ (s.stream d).active.h ≠ s.par.filler then 1 else 0

/-- History entries by which stream `d` came to own a Block: an allocation answered with a handle,
and, for TX, a WRITE answered OK. -/
def obtains (d : Dir) : Event → Bool
  | .alloc e (.block _) => decide (e = d)
  | .resp r => decide (d = .tx ∧ r.ch = .wr ∧ r.code = .ok)
  | _ => false

/-- History entries by which stream `d` gave a Block up: a free to its pool, and, for RX, a READ
answered OK. -/
def givesUp (d : Dir) : Event → Bool
  | .call (.poolFree e _) => decide (e = d)
  | .resp r => decide (d = .rx ∧ r.ch = .rd ∧ r.code = .ok)
  | _ => false

/-- No Block of stream `d` was lost or freed twice since reset: what it obtained is what it gave up
and what it still owns (E1, E5). -/
def Conserved (d : Dir) (s : State) : Prop :=
  s.log.countP (obtains d) = s.log.countP (givesUp d) + ownedCount d s

/-! ### Ownership -/

/-- 10_state.md R57: no Block has two owners, nor one owner twice; and the Block of a waiting WRITE is
the application's. -/
structure OneOwner (s : State) : Prop where
  nodup : (owned s).Nodup
  latched : s.wrPhase = .wait → s.wrH ∈ s.app

/-- The application's part in R57 (70_reset_and_hazards.md R341, 10_state.md R56 item 3): the WRITE the
next step takes, if it takes one, names a Block the application owns (log 18), named as its wires
carry it (log 1). -/
def WriteDuty (s : State) : Prop :=
  ∀ (b : Bundle) (rest : List Stimulus) (blk : Handle) (size : Size),
    pick s s.pending = some (.command b, rest) → decodeCommand b = .ok (.write blk size) →
    blk.wired s.par.blkW ∈ s.app

end Sys2Proof.Machine
end

