-- ==== Sys2Proof/Certificates/Slice0/Obligations.lean ====
section
/-! DEFINITION. The statements for the provers. Each docstring names the rules of spec/ its statement is
about. An equation `exec i s = .next t` says the result of the operation, that it completes, and its
frame: what `t` does not write is as in `s`. -/

open Sys2Proof Sys2Proof.Machine

/-! ### Encoding -/

/-- 30_encoding.md R101 to R107, R115: decoding the word and payload of an operation gives the
operation back, with every operand at every value. -/
def Obligations.DecodeOfEncode : Prop :=
  ∀ i : Instr, i.wellFormed = true → decode i.port (encode i) = .ok i

/-- R101, R104, R115: a legal word is the word of the operation it decodes to, and that operation is
well formed and belongs to the port. -/
def Obligations.EncodeOfDecode : Prop :=
  ∀ (p : Port) (b : Bundle) (i : Instr), decode p b = .ok i →
    i.wellFormed = true ∧ i.port = p ∧ (encode i).cw = b.cw

/-- R109, the part about command words: the illegal ones, in full; and R108: such a command presented
first on an idle channel is answered INVALID_ARGUMENT on the channel its `OP` routes it to, and changes
nothing else. -/
def Obligations.IllegalCommandAnswered : Prop :=
  ∀ (b : Bundle) (s : State) (rest : List Stimulus),
    ((∃ e, decodeCommand b = .error e) ↔
      (fieldOp b.cw = 0#4 ∨ 7#4 ≤ fieldOp b.cw) ∨
      fieldDir b.cw = 3#2 ∨
      (fieldOp b.cw = 3#4 ∧ fieldDir b.cw = 2#2) ∨
      (fieldOp b.cw = 4#4 ∧ fieldDir b.cw ≠ 0#2) ∨
      (fieldOp b.cw = 5#4 ∧ fieldDir b.cw ≠ 1#2) ∨
      (fieldOp b.cw = 6#4 ∧ fieldDir b.cw ≠ 2#2) ∨
      fieldZero b.cw ≠ 0#23 ∨
      (fieldOp b.cw = 2#4 ∧ 5#3 ≤ fieldSub b.cw) ∨
      (fieldOp b.cw ≠ 2#4 ∧ fieldSub b.cw ≠ 0#3)) ∧
    (assertAll s = none → s.pending = .command b :: rest → channelIdle (route b.cw) s = true →
      (∃ e, decodeCommand b = .error e) →
      step s = .next { s with
        pending := rest,
        log := s.log ++ [.op (.command b),
          answered
            (if fieldOp b.cw = 4#4 then .rd else if fieldOp b.cw = 5#4 then .wr else .cmd)
            .invalidArgument] })

/-- R116, whole: the illegal event words, and that such an event changes no register and emits no
call. -/
def Obligations.IllegalEventDiscarded : Prop :=
  ∀ (ew : Word) (s : State),
    ((∃ e, decodeEvent ew = .error e) ↔
      (bits 4 28 ew ≠ 0x8#4 ∧ bits 4 28 ew ≠ 0x9#4 ∧ bits 4 28 ew ≠ 0xA#4) ∨
      bits 20 8 ew ≠ 0#20 ∨ (bits 4 28 ew = 0xA#4 ∧ bits 5 3 ew ≠ 0#5)) ∧
    ((∃ e, decodeEvent ew = .error e) → runMove (.event ew) s = .next s)

/-- 95_test_vectors.md 2.1: words written out from the encoding table decode to their operations. -/
def Obligations.SpecWordsDecode : Prop :=
  decode .a (.ofWord 0x28000000#32) = .ok (.triggerStart .both) ∧
  decode .a (.ofWord 0x24000001#32) = .ok (.triggerStop .tx) ∧
  decode .a (.ofWord 0x34000000#32) = .ok (.status .tx) ∧
  decode .a (.ofWord 0x40000000#32) = .ok .read ∧
  decode .a (.ofWord 0x68000000#32) = .ok .teardown ∧
  decode .b (.ofWord 0x80000005#32) = .ok (.rxDone 5#8) ∧
  decode .b (.ofWord 0xA0000004#32) = .ok (.periphFault 4#3)

/-! ### The step -/

/-- A step runs the decoded operation: a legal word presented first, a command on an idle channel or
an event, is taken off the presented ones, entered in the history, and run by `exec` (R108 step 6,
R117; 20_memory.md R80). What `exec` adds to the history the step enters in the order of R94: the
operation, the answers it consumed, the calls it emitted, its responses. -/
def Obligations.StepRunsDecoded : Prop :=
  ∀ (s s' : State) (rest : List Stimulus) (m : Stimulus) (i : Instr), assertAll s = none →
    s.pending = m :: rest →
    ((∃ b : Bundle, m = .command b ∧ channelIdle (route b.cw) s = true ∧ decode .a b = .ok i) ∨
      (∃ b : Bundle, m = .event b.cw ∧ decode .b b = .ok i)) →
    s' = { s with pending := rest, log := s.log ++ [.op m] } →
    step s = contribute s' (exec i s') ∧
    ∀ t, exec i s' = .next t → ∃ l, t.log = s'.log ++ l ∧
      step s = .next { t with
        log := s.log ++ [.op m] ++ (answersOf l).map (fun p => Event.alloc p.1 p.2) ++
          (callsOf l).map .call ++ (respsOf l).map .resp }

/-- R110: a command presented to a busy channel has no step; the step that is taken is the next
enabled one, and the command stays presented. The last two clauses are the model's choice (log 14): READ
and WRITE, run by `exec` on a busy channel, change nothing but that they are presented again. -/
def Obligations.BusyChannelHoldsOff : Prop :=
  ∀ s : State,
    (∀ (b : Bundle) (m : Stimulus) (rest : List Stimulus), assertAll s = none →
      s.pending = .command b :: m :: rest → channelIdle (route b.cw) s = false →
      enabled m s = true →
      step s =
        runMove m { s with pending := .command b :: rest, log := s.log ++ [.op m] }) ∧
    (s.rdPhase = .wait →
      exec .read s = .next { s with pending := .command (encode .read) :: s.pending }) ∧
    (∀ (blk : Handle) (size : Size), s.wrPhase = .wait → exec (.write blk size) s =
      .next { s with pending := .command (encode (.write blk size)) :: s.pending })

/-- The model's choice (log 5) of the hardware's own step, when nothing presented is enabled: the
grant or timeout of the RD channel, else of the WR channel, else SYNC; and with none of them enabled
the Device waits (70_reset_and_hazards.md R330). -/
def Obligations.OwnStepOrWait : Prop :=
  ∀ s : State, assertAll s = none → (∀ m ∈ s.pending, enabled m s = false) →
    (enabled .rdGrant s = true → step s = .next (rdGrant (ownTaken .rdGrant s))) ∧
    (enabled .rdGrant s = false → enabled .rdTimeout s = true →
      step s = .next (rdTimeout (ownTaken .rdTimeout s))) ∧
    (enabled .rdGrant s = false → enabled .rdTimeout s = false →
      (enabled .wrGrant s = true → step s = .next (wrGrant (ownTaken .wrGrant s))) ∧
      (enabled .wrGrant s = false → enabled .wrTimeout s = true →
        step s = .next (wrTimeout (ownTaken .wrTimeout s))) ∧
      (enabled .wrGrant s = false → enabled .wrTimeout s = false →
        (0 < viewLag .rx s →
          ∃ j, 1 ≤ j ∧ j ≤ viewLag .rx s ∧
            step s = .next (sync .rx j (ownTaken (.sync .rx j) s))) ∧
        (viewLag .rx s = 0 → 0 < viewLag .tx s →
          ∃ j, 1 ≤ j ∧ j ≤ viewLag .tx s ∧
            step s = .next (sync .tx j (ownTaken (.sync .tx j) s))) ∧
        (viewLag .rx s = 0 → viewLag .tx s = 0 → step s = .next s)))

/-! ### Reset -/

/-- 10_state.md R44, whole: the value of every register after reset, for every value of the
parameters. -/
def Obligations.ResetValues : Prop :=
  ∀ p : Params, ∀ s : State, s = State.resetWith p →
    (∀ d, (s.stream d).state = .notReady ∧ (s.stream d).head = 0 ∧ (s.stream d).tail = 0 ∧
      (s.stream d).giveCnt = 0 ∧ (s.stream d).takeCnt = 0 ∧ (s.stream d).giveView = 0 ∧
      occ d s = 0 ∧ (s.stream d).active = Block.null ∧ (s.stream d).armed = false ∧
      (s.stream d).faultCause = .none ∧ (s.stream d).cfg = Cfg.zero) ∧
    flowTrue .rx s = 0 ∧ flowTrue .tx s = p.qcapTx ∧
    s.lastBlockFlag = false ∧ s.overrun = false ∧ s.underrun = false ∧ s.fillerSize = 0#32 ∧
    s.periphEnabled = false ∧ s.fullDuplex = p.fullDuplex ∧
    s.rdPhase = .idle ∧ s.wrPhase = .idle ∧ s.rdTimer = 0#32 ∧ s.wrTimer = 0#32 ∧
    s.wrSz = 0#32 ∧ s.wrH = NULL ∧ trace s = []

/-- 70_reset_and_hazards.md R330 to R332: the reset input gives every register its reset value in
any state, emits no call and answers no waiter. Four clauses of the equation are the model's own: the
slots read as (NULL, 0) (log 3) and the filler buffer is empty (log 13), both unspecified after reset by
R331; the moves still to come, the pools' answers and the draws are the environment's and stay
(log 20), and so do the Blocks of the application (log 23). -/
def Obligations.ResetInput : Prop :=
  ∀ s : State, runMove .reset s = .next { State.resetWith s.par with
    pending := s.pending, rxPool := s.rxPool, txPool := s.txPool, draws := s.draws, app := s.app }

/-! ### Invariants -/

/-- 10_state.md R41: the invariants hold after reset, for every legal value of the parameters. -/
def Obligations.InvAtReset : Prop :=
  (∀ p : Params, p.ok → Inv (State.resetWith p)) ∧ Inv State.reset

/-- R41, 40_queue_flow.md R150: every step keeps the invariants. -/
def Obligations.StepKeepsInv : Prop :=
  ∀ s t : State, Inv s → step s = .next t → Inv t

/-- 93_implementation_defined.md U7: no assertion of the model fails in a state that meets the
invariants, so every such state has a next one. -/
def Obligations.InvSteps : Prop :=
  ∀ s : State, Inv s → ∃ t, step s = .next t

/-- 44_configure_status.md R271, R272, R274: after reset and after every step, a stream outside
NOT_READY holds a record that passed the checks, a stream in NOT_READY holds all zeros, and the
repeat policy is on only if the Device has a filler. -/
def Obligations.StoredConfigurationValid : Prop :=
  (∀ p : Params, CfgInv (State.resetWith p)) ∧
  ∀ s t : State, Inv s → CfgInv s → step s = .next t → CfgInv t

/-- 60_exceptions.md R293, R295, R299: a stream shows a fault cause exactly while it is in ERROR. -/
def Obligations.CauseExactlyInError : Prop :=
  (∀ p : Params, CauseInv (State.resetWith p)) ∧
  ∀ s t : State, Inv s → CauseInv s → step s = .next t → CauseInv t

/-- 95_test_vectors.md E1, E5, by number: since reset, the Blocks a stream obtained (allocations
answered with a Block, WRITEs answered OK) are in number those it gave up (frees, READs answered OK)
and those it still owns (queued, and under DMA unless that is the filler). Every step keeps this.
10_state.md R57, by handle: no Block has two owners, among in-flight, the queues and the application, nor
one of them twice; this holds at reset, and every step keeps it, if the application WRITEs only
Blocks it owns (70_reset_and_hazards.md R341). The application's own dealings with the pools (log 23)
change its list of Blocks alone. `WriteDuty` takes the operand of WRITE modulo `2^BLK_W`, the model's
choice for an operand that has more bits (DEDUCED, log 1). -/
def Obligations.BlocksConservedAndOwnedOnce : Prop :=
  (∀ (p : Params) (d : Dir), Conserved d (State.resetWith p)) ∧
  (∀ (s t : State) (d : Dir), Inv s → Conserved d s → step s = .next t → Conserved d t) ∧
  (∀ p : Params, OneOwner (State.resetWith p)) ∧
  (∀ s t : State, Inv s → OneOwner s → WriteDuty s → step s = .next t → OneOwner t) ∧
  (∀ (s : State) (h : Handle),
    runMove (.appAlloc h) s = .next { s with app := s.app ++ [h] } ∧
    runMove (.appFree h) s = .next { s with app := s.app.erase h } ∧
    (enabled (.appAlloc h) s = true ↔ legalAnswer s [] (.block h) = true) ∧
    (enabled (.appFree h) s = true ↔ h ∈ s.app ∧ ¬(s.wrPhase = .wait ∧ s.wrH = h)))

/-! ### The Block Queue and the flow counter -/

/-- 40_queue_flow.md R146, whole: over any run of Push and Pop, what was queued and what Push
accepted comes out in that order, each pair once; and DropQueue frees what is queued in that
order. -/
def Obligations.QueueIsFifo : Prop :=
  ∀ (d : Dir) (s : State), StreamBounds d s →
    (∀ l : List QueueOp, queued d s ++ (queueRun d l s).1 =
      (queueRun d l s).2.1 ++ queued d (queueRun d l s).2.2) ∧
    queued d (dropQueue d s) = [] ∧
    trace (dropQueue d s) = trace s ++ (queued d s).map fun b => Call.poolFree d b.h

/-- R140, R141, R142, R144 (95_test_vectors.md E4): Push answers Full exactly on a full queue and
then writes nothing; otherwise it writes the slot at `head` and moves `head` on. Pop answers Empty
exactly on an empty queue; otherwise it returns the slot at `tail` and moves `tail` on. -/
def Obligations.PushPopBoundaries : Prop :=
  ∀ (d : Dir) (s : State) (b : Block), StreamBounds d s →
    (push d b s = none ↔ occ d s = s.qcap d) ∧
    (∀ t, push d b s = some t →
      occ d t = occ d s + 1 ∧ memRead d (s.stream d).head t = b ∧
      (∀ k, k ≠ (s.stream d).head → memRead d k t = memRead d k s) ∧
      (t.stream d).head = ((s.stream d).head + 1) % (s.qcap d + 1) ∧
      (t.stream d).tail = (s.stream d).tail) ∧
    (pop d s = none ↔ occ d s = 0) ∧
    (∀ c t, pop d s = some (c, t) →
      c = memRead d (s.stream d).tail s ∧ occ d t + 1 = occ d s ∧
      t = s.upd d fun u => { u with tail := (u.tail + 1) % (s.qcap d + 1) })

/-- 20_memory.md R84, whole: the gray code, its inverse computed from the top bit down, that
consecutive values, the wrap to 0 included, differ in exactly one bit of their codes, and the table
for three bits. -/
def Obligations.GrayCode : Prop :=
  (∀ (w : Nat) (b : BitVec w), 0 < w →
    grayCode b = b ^^^ (b >>> 1) ∧
    grayDecode (grayCode b) = b ∧
    (∀ g : BitVec w, (grayDecode g).getLsbD (w - 1) = g.getLsbD (w - 1) ∧
      ∀ i, i + 1 < w →
        (grayDecode g).getLsbD i = ((grayDecode g).getLsbD (i + 1) ^^ g.getLsbD i)) ∧
    ∃ i, i < w ∧ ∀ j, j < w →
      ((grayCode b).getLsbD j ≠ (grayCode (b + 1#w)).getLsbD j ↔ j = i)) ∧
  [0#3, 1#3, 2#3, 3#3, 4#3, 5#3, 6#3, 7#3].map grayCode =
    [0b000#3, 0b001#3, 0b011#3, 0b010#3, 0b110#3, 0b111#3, 0b101#3, 0b100#3]

/-- 40_queue_flow.md R151, whole: when SYNC(d) is enabled and with which choices, and what it
writes: `give_view[d]` only, so that `flow_view[d]` rises by `j` and stays within `flow_true[d]`. -/
def Obligations.SyncMovesView : Prop :=
  ∀ (d : Dir) (j : Nat) (s : State), StreamInv d s →
    ((∃ k, enabled (.sync d k) s = true) ↔ (s.stream d).giveView ≠ (s.stream d).giveCnt) ∧
    viewLag d s ≤ s.qcap d ∧
    (enabled (.sync d j) s = true ↔ 1 ≤ j ∧ j ≤ viewLag d s) ∧
    (enabled (.sync d j) s = true →
      runMove (.sync d j) s = .next (s.upd d fun t =>
        { t with giveView := (t.giveView + j) % 2 ^ cntW (s.qcap d) }) ∧
      flowView d (sync d j s) = flowView d s + j ∧
      flowView d (sync d j s) ≤ flowTrue d (sync d j s))

/-- R148, R149: Give raises `flow_true` by one and leaves `flow_view`; Take lowers both by one. Each
writes its own counter only. -/
def Obligations.GiveAndTake : Prop :=
  ∀ (d : Dir) (s : State), StreamInv d s →
    (flowTrue d s < s.qcap d →
      flowTrue d (give d s) = flowTrue d s + 1 ∧ flowView d (give d s) = flowView d s ∧
      give d s = s.upd d fun t =>
        { t with giveCnt := (t.giveCnt + 1) % 2 ^ cntW (s.qcap d) }) ∧
    (0 < flowView d s →
      flowTrue d (take d s) + 1 = flowTrue d s ∧ flowView d (take d s) + 1 = flowView d s ∧
      take d s = s.upd d fun t =>
        { t with takeCnt := (t.takeCnt + 1) % 2 ^ cntW (s.qcap d) })

/-! ### READ, WRITE and their completing steps -/

/-- 43_read_write.md R241, whole: the word of READ and its channel, and READ on an idle channel. -/
def Obligations.ReadAccept : Prop :=
  (∀ b : Bundle, (decode .a b = .ok .read ↔ b.cw = 0x40000000#32) ∧
    (b.cw = 0x40000000#32 → route b.cw = .rd)) ∧
  ∀ s : State, s.rdPhase = .idle →
    ((s.rx.state = .notReady ∨ s.rx.state = .error) →
      exec .read s = .next { s with log := s.log ++ [answered .rd .invalidState] }) ∧
    ((s.rx.state = .ready ∨ s.rx.state = .running ∨ s.rx.state = .stopping) →
      exec .read s = .next { s with rdTimer := s.rx.cfg.timeout, rdPhase := .wait })

/-- R246 with the payload of 30_encoding.md R107: the word of WRITE and its channel, and WRITE on an
idle channel; the state is checked before the operands. For an operand of BLK_W bits, the only ones
R7 and R107 know, `h` is the operand itself. That for an operand of `2^BLK_W` or more the handle
checked and latched is the operand modulo `2^BLK_W` is no rule of the spec but the model's choice
(DEDUCED, log 1). -/
def Obligations.WriteAccept : Prop :=
  (∀ (b : Bundle) (blk : Handle) (size : Size),
    (decode .a b = .ok (.write blk size) ↔
      b.cw = 0x54000000#32 ∧ b.blk = blk ∧ b.size = size) ∧
    (b.cw = 0x54000000#32 → route b.cw = .wr)) ∧
  ∀ (s : State) (blk h : Handle) (size : Size), s.wrPhase = .idle →
    h = { val := blk.val % 2 ^ s.par.blkW } →
    (blk.val < 2 ^ s.par.blkW → h = blk) ∧
    (s.tx.state ≠ .ready → s.tx.state ≠ .running →
      exec (.write blk size) s =
        .next { s with log := s.log ++ [answered .wr .invalidState] }) ∧
    ((s.tx.state = .ready ∨ s.tx.state = .running) →
      (size = 0#32 ∨ s.tx.cfg.blockSize < size ∨ h = NULL ∨ h = s.par.filler) →
      exec (.write blk size) s =
        .next { s with log := s.log ++ [answered .wr .invalidArgument] }) ∧
    ((s.tx.state = .ready ∨ s.tx.state = .running) →
      size ≠ 0#32 → size ≤ s.tx.cfg.blockSize → h ≠ NULL → h ≠ s.par.filler →
      exec (.write blk size) s = .next { s with
        wrH := h, wrSz := size, wrTimer := s.tx.cfg.timeout, wrPhase := .wait })

/-- R242: an enabled RD_GRANT takes the oldest queued Block, answers OK with it, and lowers the
counter and its view by one; the Block is the application's from then on (10_state.md R57). -/
def Obligations.ReadGrantDelivers : Prop :=
  ∀ s : State, RxInv s → enabled .rdGrant s = true →
    ∃ b rest, queued .rx s = b :: rest ∧
      runMove .rdGrant s = .next { s with
        rx := { s.rx with
          tail := (s.rx.tail + 1) % (s.par.qcapRx + 1),
          takeCnt := (s.rx.takeCnt + 1) % 2 ^ cntW s.par.qcapRx },
        rdPhase := .idle, rdTimer := 0#32, app := s.app ++ [b.h],
        log := s.log ++ [.resp { ch := .rd, code := .ok, blk := b.h, size := b.sz, sw := 0#32 }] } ∧
      queued .rx (rdGrant s) = rest ∧ flowTrue .rx (rdGrant s) + 1 = flowTrue .rx s ∧
      flowView .rx (rdGrant s) + 1 = flowView .rx s

/-- R247: an enabled WR_GRANT queues the latched Block last, answers OK, and lowers the counter and
its view by one; the Block is no longer the application's (10_state.md R57). -/
def Obligations.WriteGrantQueues : Prop :=
  ∀ s : State, TxInv s → enabled .wrGrant s = true →
    runMove .wrGrant s = .next { s with
      tx := { s.tx with
        slots := Memory.write s.tx.slots s.tx.head { h := s.wrH, sz := s.wrSz },
        head := (s.tx.head + 1) % (s.par.qcapTx + 1),
        takeCnt := (s.tx.takeCnt + 1) % 2 ^ cntW s.par.qcapTx },
      wrPhase := .idle, wrTimer := 0#32, wrH := NULL, wrSz := 0#32,
      app := s.app.erase s.wrH,
      log := s.log ++ [answered .wr .ok] } ∧
    queued .tx (wrGrant s) = queued .tx s ++ [{ h := s.wrH, sz := s.wrSz }] ∧
    flowTrue .tx (wrGrant s) + 1 = flowTrue .tx s ∧
    flowView .tx (wrGrant s) + 1 = flowView .tx s

/-- R243, R248 and R251, whole: when a wait times out and what that changes; where the view shows
something, only the grant is enabled; and TICK. -/
def Obligations.TimersAndTimeouts : Prop :=
  ∀ s : State,
    (enabled .rdTimeout s = true ↔
      s.rdPhase = .wait ∧ s.rdTimer = 0#32 ∧ flowView .rx s = 0) ∧
    (enabled .rdGrant s = true ↔ s.rdPhase = .wait ∧ 0 < flowView .rx s) ∧
    (enabled .rdTimeout s = true → runMove .rdTimeout s =
      .next { s with rdPhase := .idle, log := s.log ++ [answered .rd .timeout] }) ∧
    (enabled .wrTimeout s = true ↔
      s.wrPhase = .wait ∧ s.wrTimer = 0#32 ∧ flowView .tx s = 0) ∧
    (enabled .wrGrant s = true ↔ s.wrPhase = .wait ∧ 0 < flowView .tx s) ∧
    (enabled .wrTimeout s = true → runMove .wrTimeout s =
      .next { s with wrPhase := .idle, wrH := NULL, wrSz := 0#32,
                     log := s.log ++ [answered .wr .timeout] }) ∧
    enabled .tick s = true ∧
    runMove .tick s = .next { s with
      rdTimer := if s.rdPhase = .wait ∧ s.rdTimer ≠ 0#32 then s.rdTimer - 1#32 else s.rdTimer,
      wrTimer := if s.wrPhase = .wait ∧ s.wrTimer ≠ 0#32 then s.wrTimer - 1#32 else s.wrTimer }

/-- R252 item 1: an accepted READ or WRITE cannot be timed out before as many TICKs as its
configured timeout have passed, whatever else happens while it waits. The operand of WRITE is taken
modulo `2^BLK_W`, the model's choice for an operand that has more bits (DEDUCED, log 1). -/
def Obligations.NoTimeoutBeforeTicks : Prop :=
  ∀ s : State,
    (s.rdPhase = .idle → s.rx.state ≠ .notReady → s.rx.state ≠ .error →
      ∃ t, exec .read s = .next t ∧ ∀ (l : List Stimulus) (u : State),
        waitedRun .rd l t = some u → enabled .rdTimeout u = true →
        s.rx.cfg.timeout.toNat ≤ l.count .tick) ∧
    (∀ (blk : Handle) (size : Size), s.wrPhase = .idle →
      (s.tx.state = .ready ∨ s.tx.state = .running) →
      writeArgsBad (blk.wired s.par.blkW) size s = false →
      ∃ t, exec (.write blk size) s = .next t ∧ ∀ (l : List Stimulus) (u : State),
        waitedRun .wr l t = some u → enabled .wrTimeout u = true →
        s.tx.cfg.timeout.toNat ≤ l.count .tick)

/-! ### The TRIGGER commands -/

/-- 41_trigger.md R170, whole: the legality table; a TRIGGER is refused with INVALID_STATE, and no
side effect, exactly if one of its targets is in a state where it is not legal. -/
def Obligations.TriggerLegality : Prop :=
  ∀ (dir : DirSel) (s : State),
    (exec (.triggerStart dir) s = .next { s with log := s.log ++ [answered .cmd .invalidState] } ↔
      ∃ d ∈ targets dir s, (s.stream d).state ≠ .ready) ∧
    (exec (.triggerStop dir) s = .next { s with log := s.log ++ [answered .cmd .invalidState] } ↔
      ∃ d ∈ targets dir s, (s.stream d).state ≠ .running) ∧
    (exec (.triggerDrain dir) s = .next { s with log := s.log ++ [answered .cmd .invalidState] } ↔
      ∃ d ∈ targets dir s, (s.stream d).state ≠ .running) ∧
    (exec (.triggerDrop dir) s = .next { s with log := s.log ++ [answered .cmd .invalidState] } ↔
      ∃ d ∈ targets dir s, (s.stream d).state = .notReady) ∧
    (exec (.triggerPrepare dir) s =
        .next { s with log := s.log ++ [answered .cmd .invalidState] } ↔
      ∃ d ∈ targets dir s, (s.stream d).state ≠ .error)

/-- R171, R174: START of one stream with the pool's next answer a Block that nobody owns: the Block becomes the
active one, the stream is armed and RUNNING, and the calls are those of Arm in their order. -/
def Obligations.StartOneStream : Prop :=
  ∀ (d : Dir) (s : State) (h : Handle) (l : List PoolAnswer), s.fullDuplex = false →
    (s.stream d).state = .ready → poolList d s = .block h :: l →
    legalAnswer s [] (.block h) = true →
    exec (.triggerStart (sel d)) s = .next { s.upd d (fun t =>
        { t with
          state := .running, active := { h := h, sz := t.cfg.blockSize }, armed := true }) with
      rxPool := if d = .rx then l else s.rxPool,
      txPool := if d = .tx then l else s.txPool,
      overrun := if d = .rx then false else s.overrun,
      underrun := if d = .tx then false else s.underrun,
      lastBlockFlag := if d = .tx then false else s.lastBlockFlag,
      periphEnabled := true,
      log := s.log ++ [.call (.poolAlloc d), .alloc d (.block h)] ++
        (armTrace d h (s.stream d).cfg).map .call ++
        (if s.periphEnabled = false then [.call .periphEnable] else []) ++
        [answered .cmd .ok] }

/-- R174, R180: START completes whatever the pools answer, listed or free: either every target is
RUNNING and armed, each with a Block of its own configured size, and the answer is OK; or no stream
changed and the answer is RESOURCE_EXHAUSTED. With two targets and a Block from each pool, both
streams are armed, RX before TX, and the peripheral is enabled once; with BUSY for TX, the RX Block is
given back (95_test_vectors.md E8); with BUSY for RX, `pool[TX]` is not asked. One target whose pool
is BUSY changes nothing. -/
def Obligations.StartAllOrNothing : Prop :=
  ∀ (dir : DirSel) (s : State), (∀ d ∈ targets dir s, (s.stream d).state = .ready) →
    (∃ t, exec (.triggerStart dir) s = .next t ∧
      (((∀ d ∈ targets dir s, ∃ h, t.stream d =
          { s.stream d with
            state := .running, active := { h := h, sz := (s.stream d).cfg.blockSize },
            armed := true }) ∧
        (∀ d, d ∉ targets dir s → t.stream d = s.stream d) ∧ t.periphEnabled = true ∧
        t.log.getLast? = some (answered .cmd .ok)) ∨
       ((∀ d, t.stream d = s.stream d) ∧ t.periphEnabled = s.periphEnabled ∧
        t.log.getLast? = some (answered .cmd .resourceExhausted)))) ∧
    (∀ (h k : Handle) (l m : List PoolAnswer), targets dir s = [.rx, .tx] →
      s.rxPool = .block h :: l → s.txPool = .block k :: m →
      legalAnswer s [] (.block h) = true → legalAnswer s [h] (.block k) = true →
      exec (.triggerStart dir) s = .next { s with
        rx := { s.rx with
          state := .running, active := { h := h, sz := s.rx.cfg.blockSize }, armed := true },
        tx := { s.tx with
          state := .running, active := { h := k, sz := s.tx.cfg.blockSize }, armed := true },
        rxPool := l, txPool := m, overrun := false, underrun := false, lastBlockFlag := false,
        periphEnabled := true,
        log := s.log ++ [.call (.poolAlloc .rx), .alloc .rx (.block h), .call (.poolAlloc .tx),
            .alloc .tx (.block k)] ++
          (armTrace .rx h s.rx.cfg ++ armTrace .tx k s.tx.cfg).map .call ++
          (if s.periphEnabled = false then [.call .periphEnable] else []) ++
          [answered .cmd .ok] }) ∧
    (∀ (h : Handle) (l m : List PoolAnswer), targets dir s = [.rx, .tx] →
      s.rxPool = .block h :: l → s.txPool = .busy :: m →
      legalAnswer s [] (.block h) = true →
      exec (.triggerStart dir) s = .next { s with
        rxPool := l, txPool := m,
        log := s.log ++ [.call (.poolAlloc .rx), .alloc .rx (.block h), .call (.poolAlloc .tx),
          .alloc .tx .busy, .call (.poolFree .rx h), answered .cmd .resourceExhausted] }) ∧
    (∀ (d : Dir) (T : List Dir) (l : List PoolAnswer), targets dir s = d :: T →
      poolList d s = .busy :: l →
      exec (.triggerStart dir) s = .next { s with
        rxPool := if d = .rx then l else s.rxPool,
        txPool := if d = .tx then l else s.txPool,
        log := s.log ++ [.call (.poolAlloc d), .alloc d .busy,
          answered .cmd .resourceExhausted] })

/-- R172, R173, R175, R177, R178: STOP of one RUNNING stream, DRAIN of a RUNNING RX, and DROP of one
stream in any state but NOT_READY do the same: the stream is disabled and READY, its queue is freed,
its counters are reset, and the waiter on it is answered TIMEOUT. -/
def Obligations.StopOneStream : Prop :=
  ∀ (d : Dir) (s : State) (i : Instr), s.fullDuplex = false → StreamBounds d s →
    ((i = .triggerStop (sel d) ∧ (s.stream d).state = .running) ∨
     (i = .triggerDrain (sel d) ∧ d = .rx ∧ (s.stream d).state = .running) ∨
     (i = .triggerDrop (sel d) ∧ (s.stream d).state ≠ .notReady)) →
    exec i s = .next { (freedChannels [d] s).upd d (fun t =>
        { t.emptied.disabled with state := .ready }) with
      periphEnabled := (s.stream d.other).armed && s.periphEnabled,
      lastBlockFlag := if d = .tx then false else s.lastBlockFlag,
      log := s.log ++ (disableTrace d s).map .call ++ droppedEvents [d] s ++
        [answered .cmd .ok] }

/-- R175, R178, R180: STOP of two RUNNING streams and DROP of two streams out of NOT_READY, by
DIR = BOTH or on a full-duplex Device: RX is stopped first, then TX, which finds RX idle. -/
def Obligations.StopBothStreams : Prop :=
  ∀ (dir : DirSel) (s : State) (i : Instr), (dir = .both ∨ s.fullDuplex = true) →
    StreamBounds .rx s → StreamBounds .tx s →
    ((i = .triggerStop dir ∧ s.rx.state = .running ∧ s.tx.state = .running) ∨
     (i = .triggerDrop dir ∧ s.rx.state ≠ .notReady ∧ s.tx.state ≠ .notReady)) →
    exec i s = .next { freedChannels [.rx, .tx] s with
      rx := { s.rx.emptied.disabled with state := .ready },
      tx := { s.tx.emptied.disabled with state := .ready },
      periphEnabled := false, lastBlockFlag := false,
      log := s.log ++ (disableTrace .rx s).map .call ++ droppedEvents [.rx] s ++
        (disarmTrace .tx s ++ [Call.periphDisable]).map .call ++ droppedEvents [.tx] s ++
        [answered .cmd .ok] }

/-- R178 (95_test_vectors.md E3): DROP succeeds from every state except NOT_READY, leaves every
target READY with an empty queue, and succeeds again. -/
def Obligations.DropAlwaysRecovers : Prop :=
  ∀ (dir : DirSel) (s : State), Inv s →
    (∀ d ∈ targets dir s, (s.stream d).state ≠ .notReady) →
    ∃ t u, exec (.triggerDrop dir) s = .next t ∧ exec (.triggerDrop dir) t = .next u ∧
      ∀ d ∈ targets dir s,
        (t.stream d).state = .ready ∧ queued d t = [] ∧ (u.stream d).state = .ready ∧
        queued d u = [] ∧ t.log.getLast? = some (answered .cmd .ok) ∧
        u.log.getLast? = some (answered .cmd .ok)

/-- R177: DRAIN of a RUNNING TX alone: STOPPING, the last Block marked if the queue is empty, a
waiting WRITE answered INVALID_STATE (43_read_write.md R250), and no call. DRAIN of both streams (R180):
RX is stopped and dropped, a waiting READ answered TIMEOUT, then TX goes to STOPPING with its queue
kept; one OK. -/
def Obligations.DrainCommand : Prop :=
  ∀ s : State, s.tx.state = .running →
    (s.fullDuplex = false →
      exec (.triggerDrain .tx) s = .next { s with
        tx := { s.tx with state := .stopping },
        lastBlockFlag := decide (occ .tx s = 0),
        wrPhase := .idle,
        wrTimer := if s.wrPhase = .wait then 0 else s.wrTimer,
        wrH := if s.wrPhase = .wait then NULL else s.wrH,
        wrSz := if s.wrPhase = .wait then 0 else s.wrSz,
        log := s.log ++ (if s.wrPhase = .wait then [answered .wr .invalidState] else []) ++
          [answered .cmd .ok] }) ∧
    (∀ dir : DirSel, (dir = .both ∨ s.fullDuplex = true) → StreamBounds .rx s →
      s.rx.state = .running →
      exec (.triggerDrain dir) s = .next { freedChannels [.rx] s with
        rx := { s.rx.emptied.disabled with state := .ready },
        tx := { s.tx with state := .stopping },
        lastBlockFlag := decide (occ .tx s = 0),
        periphEnabled := s.tx.armed && s.periphEnabled,
        wrPhase := .idle,
        wrTimer := if s.wrPhase = .wait then 0 else s.wrTimer,
        wrH := if s.wrPhase = .wait then NULL else s.wrH,
        wrSz := if s.wrPhase = .wait then 0 else s.wrSz,
        log := s.log ++ (disableTrace .rx s).map .call ++ droppedEvents [.rx] s ++
          (if s.wrPhase = .wait then [answered .wr .invalidState] else []) ++
          [answered .cmd .ok] })

/-- 42_completion.md R218, 41_trigger.md R177: a drain plays the queue out. A stream in STOPPING
with `n` Blocks queued stays in STOPPING for `n` successful completions, each taking the next Block,
and goes to READY, disabled, at the one after; then the queue is empty, the counter is at `QCAP`, and
the Blocks freed are the one under DMA (unless the filler) and every queued one, in order. -/
def Obligations.DrainPlaysOut : Prop :=
  ∀ s : State, Inv s → s.tx.state = .stopping →
    (∀ k, k ≤ occ .tx s → ∃ t, txDones k s = some t ∧ t.tx.state = .stopping ∧
      queued .tx t = (queued .tx s).drop k) ∧
    ∃ t, txDones (occ .tx s + 1) s = some t ∧ t.tx.state = .ready ∧ t.tx.armed = false ∧
      queued .tx t = [] ∧ flowTrue .tx t = s.par.qcapTx ∧
      freed .tx t = freed .tx s ++
        (if s.tx.active.h = s.par.filler then [] else [s.tx.active.h]) ++
        (queued .tx s).map fun b => b.h

/-- R179: PREPARE, whatever its targets, all of them in ERROR: each is READY with its queue freed,
its counters reset, its cause and its loss flag cleared and its waiter answered TIMEOUT; nothing is
armed and no DMA or peripheral call is made. -/
def Obligations.PrepareRecovers : Prop :=
  ∀ (dir : DirSel) (s : State), StreamBounds .rx s → StreamBounds .tx s →
    (∀ d ∈ targets dir s, (s.stream d).state = .error) →
    exec (.triggerPrepare dir) s = .next { freedChannels (targets dir s) s with
      rx := if .rx ∈ targets dir s then { s.rx.emptied with state := .ready } else s.rx,
      tx := if .tx ∈ targets dir s then { s.tx.emptied with state := .ready } else s.tx,
      overrun := if .rx ∈ targets dir s then false else s.overrun,
      underrun := if .tx ∈ targets dir s then false else s.underrun,
      log := s.log ++ droppedEvents (targets dir s) s ++ [answered .cmd .ok] }

/-- 30_encoding.md R111: with `full_duplex = 1` the DIR operand of a TRIGGER is ignored, and
otherwise a TRIGGER acts on the streams DIR names. -/
def Obligations.TriggerTargets : Prop :=
  ∀ (dir : DirSel) (s : State),
    (s.fullDuplex = true → targets dir s = [.rx, .tx]) ∧
    (s.fullDuplex = false → targets dir s = addressed dir) ∧
    (s.fullDuplex = true →
      exec (.triggerStart dir) s = exec (.triggerStart .both) s ∧
      exec (.triggerStop dir) s = exec (.triggerStop .both) s ∧
      exec (.triggerDrain dir) s = exec (.triggerDrain .both) s ∧
      exec (.triggerDrop dir) s = exec (.triggerDrop .both) s ∧
      exec (.triggerPrepare dir) s = exec (.triggerPrepare .both) s)

/-! ### CONFIGURE, STATUS, TEARDOWN -/

/-- 30_encoding.md R105, R106: the fields of the record on the bits of its words; and
44_configure_status.md R271: CONFIGURE of streams that are NOT_READY or READY, with a record
that disables (`freq = 0`) or passes the checks: each addressed stream drops its queue, resets its
counters and flags, and stores the record, or all zeros. -/
def Obligations.ConfigureStores : Prop :=
  (∀ (w0 w1 w2 w3 w4 : Word) (c : Cfg), c = cfgOfWords w0 w1 w2 w3 w4 →
    c.freq = w0 ∧ c.wordSize.toNat = w1.toNat % 2 ^ 6 ∧
    c.channelCount.toNat = w1.toNat / 2 ^ 8 % 2 ^ 8 ∧ c.format.toNat = w1.toNat / 2 ^ 16 % 2 ^ 8 ∧
    c.options.toNat = w1.toNat / 2 ^ 24 ∧ c.blockSize = w2 ∧
    c.blockCount.toNat = w3.toNat % 2 ^ 16 ∧ c.timeout = w4 ∧
    c.slave = w1.getLsbD 24 ∧ c.clockPolarity = w1.getLsbD 25 ∧
    c.dropOnOverrun = w1.getLsbD 26 ∧ c.repeatOnUnderrun = w1.getLsbD 27) ∧
  ∀ (dir : DirSel) (w0 w1 w2 w3 w4 : Word) (s : State), StreamBounds .rx s → StreamBounds .tx s →
    (∀ d ∈ addressed dir, (s.stream d).state = .notReady ∨ (s.stream d).state = .ready) →
    (w0 = 0#32 ∨
      validRecord s.par (addressed dir) w1 w3 (cfgOfWords w0 w1 w2 w3 w4) = true) →
    ∀ f : Stream → Stream,
      (f = fun t => { t.emptied with
        state := if w0 = 0#32 then .notReady else .ready,
        cfg := if w0 = 0#32 then Cfg.zero else cfgOfWords w0 w1 w2 w3 w4 }) →
      exec (.configure dir w0 w1 w2 w3 w4) s = .next { freedChannels (addressed dir) s with
        rx := if .rx ∈ addressed dir then f s.rx else s.rx,
        tx := if .tx ∈ addressed dir then f s.tx else s.tx,
        overrun := if .rx ∈ addressed dir then false else s.overrun,
        underrun := if .tx ∈ addressed dir then false else s.underrun,
        log := s.log ++ droppedEvents (addressed dir) s ++ [answered .cmd .ok] }

/-- R271, R275: CONFIGURE checks the state first, then the record, and a failing check changes
nothing. -/
def Obligations.ConfigureRefuses : Prop :=
  ∀ (dir : DirSel) (w0 w1 w2 w3 w4 : Word) (s : State),
    ((∃ d ∈ addressed dir, (s.stream d).state = .running ∨ (s.stream d).state = .stopping ∨
        (s.stream d).state = .error) →
      exec (.configure dir w0 w1 w2 w3 w4) s =
        .next { s with log := s.log ++ [answered .cmd .invalidState] }) ∧
    ((∀ d ∈ addressed dir, (s.stream d).state = .notReady ∨ (s.stream d).state = .ready) →
      w0 ≠ 0#32 →
      validRecord s.par (addressed dir) w1 w3 (cfgOfWords w0 w1 w2 w3 w4) = false →
      exec (.configure dir w0 w1 w2 w3 w4) s =
        .next { s with log := s.log ++ [answered .cmd .invalidArgument] })

/-- R272 with 30_encoding.md R105, R106: the five checks, each on the bits of the record's words
that the field occupies. -/
def Obligations.RecordChecks : Prop :=
  ∀ (p : Params) (T : List Dir) (w0 w1 w2 w3 w4 : Word),
    validRecord p T w1 w3 (cfgOfWords w0 w1 w2 w3 w4) = true ↔
      (w1.toNat % 64 = 16 ∨ w1.toNat % 64 = 24 ∨ w1.toNat % 64 = 32) ∧
      BitVec.ofNat 8 (w1.toNat / 2 ^ 16) ∈ p.formatLegal ∧
      w1.toNat / 64 % 4 = 0 ∧ w3.toNat / 2 ^ 16 = 0 ∧ w1.toNat / 2 ^ 28 = 0 ∧
      w2 ≠ 0#32 ∧
      (.tx ∈ T → w1.toNat / 2 ^ 27 % 2 = 1 → p.hasFiller = true)

/-- R273, whole: the words of STATUS; STATUS changes nothing, emits nothing and answers OK with the
status word; and 30_encoding.md R114, whole: the fields of that word. -/
def Obligations.StatusAnswers : Prop :=
  ∀ (d : Dir) (s : State),
    (∀ b : Bundle, decode .a b = .ok (.status (sel d)) ↔
      b.cw = if d = .rx then 0x30000000#32 else 0x34000000#32) ∧
    exec (.status (sel d)) s = .next { s with
      log := s.log ++
        [.resp { ch := .cmd, code := .ok, blk := NULL, size := 0#32, sw := statusWord d s }] } ∧
    (statusWord d s).extractLsb' 0 3 = (s.stream d).state.code ∧
    (statusWord d s).getLsbD 3 = (s.stream d).armed ∧
    (statusWord d s).getLsbD 4 = (if d = .rx then s.overrun else s.underrun) ∧
    (statusWord d s).getLsbD 5 = (if d = .tx then s.lastBlockFlag else false) ∧
    (statusWord d s).extractLsb' 6 3 = (s.stream d).faultCause.code ∧
    (statusWord d s).getLsbD 9 = s.periphEnabled ∧
    (statusWord d s).getLsbD 10 = s.fullDuplex ∧
    (statusWord d s).extractLsb' 11 5 = 0#5 ∧
    ((statusWord d s).extractLsb' 16 8).toNat = min (flowView d s) 255 ∧
    ((statusWord d s).extractLsb' 24 8).toNat = min (occ d s) 255

/-- 44_configure_status.md R274: after TEARDOWN every register has its reset value, but for the
indices, which agree, and the slots; every Block owned is freed, every waiter is answered TIMEOUT,
and the calls come in the order of the rule. -/
def Obligations.TeardownResets : Prop :=
  ∀ s : State, Inv s →
    exec .teardown s = .next { State.resetWith s.par with
      rx := { Stream.reset with slots := s.rx.slots, head := s.rx.head, tail := s.rx.head },
      tx := { Stream.reset with slots := s.tx.slots, head := s.tx.head, tail := s.tx.head },
      fillerBuf := s.fillerBuf, pending := s.pending, rxPool := s.rxPool, txPool := s.txPool,
      draws := s.draws, app := s.app,
      log := s.log ++
        (if s.rx.state = .notReady then []
          else (disableTrace .rx s).map .call ++ droppedEvents [.rx] s) ++
        (if s.tx.state = .notReady then []
          else (disarmTrace .tx s ++ [Call.periphDisable]).map .call ++ droppedEvents [.tx] s) ++
        [answered .cmd .ok] }

/-! ### The B-port events -/

/-- 42_completion.md R221: a completion for a stream that is not armed changes nothing and emits
nothing. -/
def Obligations.UnarmedCompletionDiscarded : Prop :=
  ∀ (d : Dir) (status : BitVec 8) (s : State), (s.stream d).armed = false →
    exec (doneOf d status) s = .next s

/-- R211: a successful RX completion in RUNNING with a fresh Block that nobody owns and room in the queue: reload
with the fresh Block, queue the completed one at the configured size, raise the counter. -/
def Obligations.ReceiveQueues : Prop :=
  ∀ (s : State) (nb : Handle) (l : List PoolAnswer), s.rx.armed = true → s.rx.state ≠ .stopping →
    StreamBounds .rx s → occ .rx s < s.par.qcapRx → s.rxPool = .block nb :: l →
    legalAnswer s [] (.block nb) = true →
    exec (.rxDone 0#8) s = .next { s with
      rx := { s.rx with
        active := { h := nb, sz := s.rx.cfg.blockSize },
        slots := Memory.write s.rx.slots s.rx.head
          { h := s.rx.active.h, sz := s.rx.cfg.blockSize },
        head := (s.rx.head + 1) % (s.par.qcapRx + 1),
        giveCnt := (s.rx.giveCnt + 1) % 2 ^ cntW s.par.qcapRx },
      rxPool := l,
      log := s.log ++ [.call (.poolAlloc .rx), .alloc .rx (.block nb),
        .call (.dmaReload .rx .periphDr (.block nb) s.rx.cfg.blockSize)] }

/-- R211, R212: a successful RX completion with a full queue. Under the drop policy the completed
Block is freed and `overrun` is set; by default both Blocks are freed and the stream faults with
OVERRUN, its queue kept. One that gets no fresh Block faults with ALLOC_FAIL: the completed Block, still
the active one, is freed, and the queue is kept. On a full-duplex Device either fault puts TX, if it is
READY, RUNNING or STOPPING, into ERROR with PEER (60_exceptions.md R296). -/
def Obligations.ReceiveLosses : Prop :=
  ∀ (s : State) (l : List PoolAnswer), s.rx.armed = true → s.rx.state ≠ .stopping →
    (∀ (nb : Handle) (calls : List Event), StreamBounds .rx s → occ .rx s = s.par.qcapRx →
      s.rxPool = .block nb :: l → legalAnswer s [] (.block nb) = true →
      calls = [.call (.poolAlloc .rx), .alloc .rx (.block nb),
        .call (.dmaReload .rx .periphDr (.block nb) s.rx.cfg.blockSize),
        .call (.poolFree .rx s.rx.active.h)] →
      (s.rx.cfg.options.getLsbD 2 = true →
        exec (.rxDone 0#8) s = .next { s with
          rx := { s.rx with active := { h := nb, sz := s.rx.cfg.blockSize } },
          rxPool := l, overrun := true, log := s.log ++ calls }) ∧
      (s.rx.cfg.options.getLsbD 2 = false →
        (s.fullDuplex = false ∨ faultable s.tx.state = false) →
        exec (.rxDone 0#8) s = .next { s with
          rx := s.rx.faulted .overrun,
          rxPool := l, periphEnabled := s.tx.armed && s.periphEnabled,
          log := s.log ++ calls ++ [.call (.dmareqDisable .rx),
            .call (.errirqDisable .rx), .call (.dmaStop .rx), .call (.poolFree .rx nb)] ++
            (if s.tx.armed = false then [.call .periphDisable] else []) }) ∧
      (s.rx.cfg.options.getLsbD 2 = false →
        s.fullDuplex = true → faultable s.tx.state = true →
        exec (.rxDone 0#8) s = .next { s with
          rx := s.rx.faulted .overrun, tx := s.tx.faulted .peer,
          rxPool := l, periphEnabled := false, lastBlockFlag := false,
          log := s.log ++ calls ++ [.call (.dmareqDisable .rx),
            .call (.errirqDisable .rx), .call (.dmaStop .rx), .call (.poolFree .rx nb)] ++
            (if s.tx.armed = false then [.call .periphDisable] else []) ++
            (disarmTrace .tx s ++ [Call.periphDisable]).map .call })) ∧
    (s.rxPool = .busy :: l →
      ((s.fullDuplex = false ∨ faultable s.tx.state = false) →
        exec (.rxDone 0#8) s = .next { s with
          rx := s.rx.faulted .allocFail,
          rxPool := l, periphEnabled := s.tx.armed && s.periphEnabled,
          log := s.log ++ [.call (.poolAlloc .rx), .alloc .rx .busy] ++
            (disableTrace .rx s).map .call }) ∧
      (s.fullDuplex = true → faultable s.tx.state = true →
        exec (.rxDone 0#8) s = .next { s with
          rx := s.rx.faulted .allocFail, tx := s.tx.faulted .peer,
          rxPool := l, periphEnabled := false, lastBlockFlag := false,
          log := s.log ++ [.call (.poolAlloc .rx), .alloc .rx .busy] ++
            (disableTrace .rx s).map .call ++
            (disarmTrace .tx s ++ [Call.periphDisable]).map .call }))

/-- R215, R216: a successful TX completion with a Block queued: the sent Block is freed (after the
filler copy, under the repeat policy), the next is cleaned and sent with the size it was written
with, `underrun` is cleared, the counter is raised, and in STOPPING the last Block is marked. R218: the
completion that ends a drain, of the last Block or with nothing queued, frees the sent Block and
leaves the stream READY and disabled. -/
def Obligations.TransmitNext : Prop :=
  ∀ (s : State) (copied : Bool), s.tx.armed = true → StreamBounds .tx s →
    s.tx.active.h ≠ s.par.filler → copied = s.tx.cfg.options.getLsbD 3 →
    (∀ (b : Block) (rest : List Block), s.lastBlockFlag = false → queued .tx s = b :: rest →
      exec (.txDone 0#8) s = .next { s with
        tx := { s.tx with
          active := b,
          tail := (s.tx.tail + 1) % (s.par.qcapTx + 1),
          giveCnt := (s.tx.giveCnt + 1) % 2 ^ cntW s.par.qcapTx },
        underrun := false,
        lastBlockFlag := decide (s.tx.state = .stopping ∧ rest = []),
        fillerSize := if copied then s.tx.active.sz else s.fillerSize,
        fillerBuf := if copied then s.tx.active else s.fillerBuf,
        log := s.log ++
          (if copied then [.call (.fillerCopy s.tx.active.h s.tx.active.sz)] else []) ++
          [.call (.poolFree .tx s.tx.active.h), .call (.cacheClean b.h b.sz),
            .call (.dmaReload .tx (.block b.h) .periphDr b.sz)] }) ∧
    ((s.lastBlockFlag = true ∨ (s.tx.state = .stopping ∧ queued .tx s = [])) →
      exec (.txDone 0#8) s = .next { s with
        tx := { s.tx.disabled with state := .ready },
        lastBlockFlag := false,
        periphEnabled := s.rx.armed && s.periphEnabled,
        fillerSize := if copied then s.tx.active.sz else s.fillerSize,
        fillerBuf := if copied then s.tx.active else s.fillerBuf,
        log := s.log ++
          (if copied then [.call (.fillerCopy s.tx.active.h s.tx.active.sz)] else []) ++
          [.call (.poolFree .tx s.tx.active.h), .call (.dmareqDisable .tx),
            .call (.errirqDisable .tx), .call (.dmaStop .tx)] ++
          (if s.rx.armed = false then [.call .periphDisable] else []) })

/-- R217: a successful TX completion of the filler: nothing is freed or copied. With a Block queued
it is sent, `underrun` is cleared, and in STOPPING the last Block is marked; with none, in RUNNING
under the repeat policy, the filler is sent again, `underrun` is set and the counter is not raised; one
that ends a drain (R218) leaves the stream READY and disabled. -/
def Obligations.FillerCompletion : Prop :=
  ∀ s : State, s.tx.armed = true → StreamBounds .tx s → s.tx.active.h = s.par.filler →
    (∀ b rest, s.lastBlockFlag = false → queued .tx s = b :: rest →
      exec (.txDone 0#8) s = .next { s with
        tx := { s.tx with
          active := b,
          tail := (s.tx.tail + 1) % (s.par.qcapTx + 1),
          giveCnt := (s.tx.giveCnt + 1) % 2 ^ cntW s.par.qcapTx },
        underrun := false,
        lastBlockFlag := decide (s.tx.state = .stopping ∧ rest = []),
        log := s.log ++ [.call (.cacheClean b.h b.sz),
          .call (.dmaReload .tx (.block b.h) .periphDr b.sz)] }) ∧
    (s.lastBlockFlag = false → s.tx.state = .running → queued .tx s = [] →
      s.tx.cfg.options.getLsbD 3 = true →
      exec (.txDone 0#8) s = .next { s with
        tx := { s.tx with active := { h := s.par.filler, sz := s.fillerSize } },
        underrun := true,
        log := s.log ++ [.call (.cacheClean s.par.filler s.fillerSize),
          .call (.dmaReload .tx (.block s.par.filler) .periphDr s.fillerSize)] }) ∧
    ((s.lastBlockFlag = true ∨ (s.tx.state = .stopping ∧ queued .tx s = [])) →
      exec (.txDone 0#8) s = .next { s with
        tx := { s.tx.disabled with state := .ready },
        lastBlockFlag := false,
        periphEnabled := s.rx.armed && s.periphEnabled,
        log := s.log ++ [.call (.dmareqDisable .tx), .call (.errirqDisable .tx),
            .call (.dmaStop .tx)] ++
          (if s.rx.armed = false then [.call .periphDisable] else []) })

/-- R215, R217: a successful TX completion in RUNNING with nothing queued. Under the repeat policy
the sent Block is copied to the filler and freed, and the filler is sent; by default the sent Block is
freed, unless it was the filler, and the stream faults with UNDERRUN. On a full-duplex Device that puts
RX, if it is READY, RUNNING or STOPPING, into ERROR with PEER (60_exceptions.md R296). -/
def Obligations.TransmitUnderrun : Prop :=
  ∀ (s : State) (calls : List Event), s.tx.armed = true → s.tx.state = .running →
    s.lastBlockFlag = false → StreamBounds .tx s → queued .tx s = [] →
    calls = (if s.tx.active.h = s.par.filler then [] else [.call (.poolFree .tx s.tx.active.h)]) ++
      [.call (.dmareqDisable .tx), .call (.errirqDisable .tx), .call (.dmaStop .tx)] ++
      (if s.rx.armed = false then [.call .periphDisable] else []) →
    (s.tx.cfg.options.getLsbD 3 = true → s.tx.active.h ≠ s.par.filler →
      exec (.txDone 0#8) s = .next { s with
        tx := { s.tx with active := { h := s.par.filler, sz := s.tx.active.sz } },
        underrun := true, fillerSize := s.tx.active.sz, fillerBuf := s.tx.active,
        log := s.log ++ [.call (.fillerCopy s.tx.active.h s.tx.active.sz),
          .call (.poolFree .tx s.tx.active.h),
          .call (.cacheClean s.par.filler s.tx.active.sz),
          .call (.dmaReload .tx (.block s.par.filler) .periphDr s.tx.active.sz)] }) ∧
    (s.tx.cfg.options.getLsbD 3 = false →
      (s.fullDuplex = false ∨ faultable s.rx.state = false) →
      exec (.txDone 0#8) s = .next { s with
        tx := s.tx.faulted .underrun,
        periphEnabled := s.rx.armed && s.periphEnabled,
        log := s.log ++ calls }) ∧
    (s.tx.cfg.options.getLsbD 3 = false → s.fullDuplex = true → faultable s.rx.state = true →
      exec (.txDone 0#8) s = .next { s with
        rx := s.rx.faulted .peer, tx := s.tx.faulted .underrun,
        periphEnabled := false,
        log := s.log ++ calls ++ (disarmTrace .rx s ++ [Call.periphDisable]).map .call })

/-- R211, R215, 60_exceptions.md R295, R296: a completion with `status ≠ 0` on an armed stream faults
it with DMA_ERROR whatever else holds: the active Block is freed unless it is the filler, the queue
is kept. On a full-duplex Device the other stream, in READY, RUNNING or STOPPING, faults with PEER;
in other states, and on a half-duplex Device, it is left alone. -/
def Obligations.DmaErrorFaults : Prop :=
  ∀ (d : Dir) (status : BitVec 8) (s : State), (s.stream d).armed = true → status ≠ 0#8 →
    ((s.fullDuplex = false ∨ faultable (s.stream d.other).state = false) →
      exec (doneOf d status) s = .next { s.upd d (Stream.faulted .dmaError) with
        periphEnabled := (s.stream d.other).armed && s.periphEnabled,
        lastBlockFlag := if d = .tx then false else s.lastBlockFlag,
        log := s.log ++ (disableTrace d s).map .call }) ∧
    (s.fullDuplex = true → faultable (s.stream d.other).state = true →
      exec (doneOf d status) s = .next
        { (s.upd d (Stream.faulted .dmaError)).upd d.other (Stream.faulted .peer) with
          periphEnabled := false, lastBlockFlag := false,
          log := s.log ++ (disableTrace d s).map .call ++
            (disarmTrace d.other s ++ [Call.periphDisable]).map .call })

/-- 42_completion.md R220: PERIPH_FAULT: nothing for `flags = 0`; the error flags are cleared
first otherwise; every armed stream faults with PERIPH; and on a full-duplex Device with an armed stream,
a stream that is not armed but READY, RUNNING or STOPPING faults with PEER. -/
def Obligations.PeripheralFault : Prop :=
  ∀ (flags : BitVec 3) (s : State),
    (flags = 0#3 → exec (.periphFault flags) s = .next s) ∧
    (flags ≠ 0#3 → s.rx.armed = false → s.tx.armed = false →
      exec (.periphFault flags) s = .next { s with log := s.log ++ [.call .clearErrors] }) ∧
    (flags ≠ 0#3 → (s.rx.armed = true ∨ s.tx.armed = true) → s.fullDuplex = false →
      exec (.periphFault flags) s = .next { s with
        rx := if s.rx.armed then s.rx.faulted .periph else s.rx,
        tx := if s.tx.armed then s.tx.faulted .periph else s.tx,
        periphEnabled := false,
        lastBlockFlag := !s.tx.armed && s.lastBlockFlag,
        log := s.log ++ [.call .clearErrors] ++
          (if s.rx.armed then (disableTrace .rx s).map .call else []) ++
          (if s.tx.armed then (disarmTrace .tx s ++ [Call.periphDisable]).map .call else []) }) ∧
    (flags ≠ 0#3 → (s.rx.armed = true ∨ s.tx.armed = true) → s.fullDuplex = true →
      ∀ next : Stream → Stream,
      (next = fun u => if u.armed then u.faulted .periph
        else if faultable u.state then u.faulted .peer else u) →
      exec (.periphFault flags) s = .next { s with
        rx := next s.rx, tx := next s.tx, periphEnabled := false,
        lastBlockFlag := if s.tx.armed ∨ faultable s.tx.state then false else s.lastBlockFlag,
        log := s.log ++ [.call .clearErrors] ++
          (if s.rx.armed then (disableTrace .rx s).map .call else []) ++
          (if s.tx.armed then (disarmTrace .tx s ++ [Call.periphDisable]).map .call else []) ++
          (if ¬ s.rx.armed ∧ faultable s.rx.state then
            (disarmTrace .rx s ++ [Call.periphDisable]).map .call else []) ++
          (if ¬ s.tx.armed ∧ faultable s.tx.state then
            (disarmTrace .tx s ++ [Call.periphDisable]).map .call else []) })

/-! ### Whole-machine rules -/

/-- 41_trigger.md R181: a stream's state changes along the table's edges only. -/
def Obligations.TransitionTable : Prop :=
  ∀ (i : Instr) (s t : State) (d : Dir), Inv s → exec i s = .next t →
    edge s.fullDuplex i d (s.stream d).state (t.stream d).state

/-- R181, last row, and 43_read_write.md R242 to R251: grants, timeouts, TICK and SYNC change no
stream's state, configuration, active Block or fault registers and emit no call. -/
def Obligations.InternalStepsFrame : Prop :=
  ∀ (m : Stimulus) (s t : State) (d : Dir),
    (m = .rdGrant ∨ m = .rdTimeout ∨ m = .wrGrant ∨ m = .wrTimeout ∨ m = .tick ∨
      ∃ e j, m = .sync e j) →
    runMove m s = .next t →
    (t.stream d).state = (s.stream d).state ∧ (t.stream d).cfg = (s.stream d).cfg ∧
    (t.stream d).active = (s.stream d).active ∧ (t.stream d).armed = (s.stream d).armed ∧
    (t.stream d).faultCause = (s.stream d).faultCause ∧
    (t.stream d).giveCnt = (s.stream d).giveCnt ∧
    t.lastBlockFlag = s.lastBlockFlag ∧ t.overrun = s.overrun ∧ t.underrun = s.underrun ∧
    t.fillerSize = s.fillerSize ∧ t.periphEnabled = s.periphEnabled ∧ trace t = trace s

/-- 60_exceptions.md R290: no A-port operation raises a fault: it puts no stream in ERROR and
changes the fault cause only to NONE; and no B-port event has a response. -/
def Obligations.ErrorsAndFaultsApart : Prop :=
  ∀ (i : Instr) (s t : State), exec i s = .next t →
    (i.port = .a → ∀ d, ((t.stream d).state = .error → (s.stream d).state = .error) ∧
      ((t.stream d).faultCause = (s.stream d).faultCause ∨ (t.stream d).faultCause = .none)) ∧
    (i.port = .b → responses t = responses s)

/-- R292, R275: an operation that answers INVALID_ARGUMENT or INVALID_STATE to its own command has
changed nothing else. -/
def Obligations.RefusalsHaveNoSideEffect : Prop :=
  ∀ (i : Instr) (s t : State) (ch : Channel) (k : Code), exec i s = .next t → t.log ≠ s.log →
    t.log.getLast? = some (answered ch k) → (k = .invalidArgument ∨ k = .invalidState) →
    t = { s with log := s.log ++ [answered ch k] }

/-- 30_encoding.md R110: a CMD operation is answered in its one step, once, at its end. -/
def Obligations.CommandAnsweredOnce : Prop :=
  ∀ (i : Instr) (s t : State), i.port = .a → route (encode i).cw = .cmd → exec i s = .next t →
    ∃ (l : List Event) (r : Response), t.log = s.log ++ l ++ [.resp r] ∧ r.ch = .cmd ∧
      ∀ q ∈ respsOf l, q.ch ≠ .cmd

/-- 10_state.md R40, 20_memory.md R72: the slots. A command writes none; RX_DONE writes at most the
slot of RX at `head[RX]`; WR_GRANT at most the slot of TX at `head[TX]`; no other operation or
internal step writes any. -/
def Obligations.SlotFrame : Prop :=
  ∀ (s t : State) (d : Dir) (k : Nat),
    (∀ i, exec i s = .next t →
      (¬ ((∃ status, i = .rxDone status) ∧ d = .rx ∧ k = s.rx.head)) →
      memRead d k t = memRead d k s) ∧
    (∀ m, (m = .rdGrant ∨ m = .rdTimeout ∨ m = .wrGrant ∨ m = .wrTimeout ∨ m = .tick ∨
        ∃ e j, m = .sync e j) → runMove m s = .next t →
      (¬ (m = .wrGrant ∧ d = .tx ∧ k = s.tx.head)) → memRead d k t = memRead d k s)

/-- R40, the column of the B port: what no event writes. -/
def Obligations.EventFrame : Prop :=
  ∀ (i : Instr) (s t : State), i.port = .b → exec i s = .next t →
    (∀ d, (t.stream d).cfg = (s.stream d).cfg ∧ (t.stream d).takeCnt = (s.stream d).takeCnt ∧
      (t.stream d).giveView = (s.stream d).giveView) ∧
    t.rx.tail = s.rx.tail ∧ t.tx.head = s.tx.head ∧ t.tx.slots = s.tx.slots ∧
    t.rdPhase = s.rdPhase ∧ t.rdTimer = s.rdTimer ∧ t.wrPhase = s.wrPhase ∧
    t.wrTimer = s.wrTimer ∧ t.wrH = s.wrH ∧ t.wrSz = s.wrSz ∧ t.pending = s.pending ∧
    t.fullDuplex = s.fullDuplex ∧ t.par = s.par

/-- R40, the column of the A port, with 40_queue_flow.md R147: what no command writes or only
resets. -/
def Obligations.CommandFrame : Prop :=
  ∀ (i : Instr) (s t : State), i.port = .a → exec i s = .next t →
    (∀ d, (t.stream d).slots = (s.stream d).slots ∧ (t.stream d).head = (s.stream d).head ∧
      ((t.stream d).giveCnt = (s.stream d).giveCnt ∨ (t.stream d).giveCnt = 0) ∧
      ((t.stream d).takeCnt = (s.stream d).takeCnt ∨ (t.stream d).takeCnt = 0) ∧
      ((t.stream d).giveView = (s.stream d).giveView ∨ (t.stream d).giveView = 0)) ∧
    (t.fillerSize = s.fillerSize ∨ (i = .teardown ∧ t.fillerSize = 0#32)) ∧
    (t.overrun = true → s.overrun = true) ∧ (t.underrun = true → s.underrun = true) ∧
    t.fillerBuf = s.fillerBuf ∧ t.fullDuplex = s.fullDuplex ∧ t.par = s.par

/-- 20_memory.md R82, 60_exceptions.md R296: on a half-duplex Device an operation that names one
stream leaves everything of the other as it was. -/
def Obligations.HalfDuplexIndependence : Prop :=
  ∀ (d : Dir) (i : Instr) (s t : State), s.fullDuplex = false → namesOnly d i →
    exec i s = .next t → SideSame d.other s t

/-- 10_state.md R25, R26, R349, 60_exceptions.md R298: `overrun` is set only by a successful RX
completion under the drop policy and stays until START, PREPARE, CONFIGURE or TEARDOWN; `underrun` is
set only by a successful TX completion under the repeat policy and stays until one of these or a
successful TX completion that pops a real Block; under these policies no operation brings in the
causes OVERRUN and UNDERRUN. -/
def Obligations.LossPolicies : Prop :=
  ∀ (i : Instr) (s t : State), exec i s = .next t →
    (s.overrun = false → t.overrun = true → i = .rxDone 0#8 ∧ dropOnOverrun s = true) ∧
    (s.overrun = true → t.overrun = false → clearsLoss i) ∧
    (s.underrun = false → t.underrun = true → i = .txDone 0#8 ∧ repeatOnUnderrun s = true) ∧
    (s.underrun = true → t.underrun = false → clearsLoss i ∨
      (i = .txDone 0#8 ∧ s.tx.armed = true ∧ s.lastBlockFlag = false ∧
        s.tx.head ≠ s.tx.tail)) ∧
    (dropOnOverrun s = true → t.rx.faultCause = .overrun → s.rx.faultCause = .overrun) ∧
    (repeatOnUnderrun s = true → t.tx.faultCause = .underrun → s.tx.faultCause = .underrun)
end

