-- ==== Sys2Proof/Laws/Arith.lean ====
section
/-! SUPPORT. Laws of the wrapped difference `subMod` and of the widths (40_queue_flow.md R153). -/

namespace Sys2Proof.Machine

theorem subMod_lt {m : Nat} (hm : 0 < m) (a b : Nat) : subMod m a b < m := by
  have h0 := Int.emod_nonneg ((a : Int) - b) (b := (m : Int)) (by omega)
  have h1 := Int.emod_lt_of_pos ((a : Int) - b) (b := (m : Int)) (by omega)
  unfold subMod
  omega

/-- The difference is exact modulo `m`. -/
theorem subMod_add_modEq {m : Nat} (hm : 0 < m) (a b : Nat) : subMod m a b + b ≡ a [MOD m] := by
  have h0 := Int.emod_nonneg ((a : Int) - b) (b := (m : Int)) (by omega)
  rw [← Int.natCast_modEq_iff]
  have hc : ((subMod m a b : Nat) : Int) = ((a : Int) - b) % m := by
    unfold subMod
    exact Int.toNat_of_nonneg h0
  push_cast
  rw [hc]
  have := (Int.mod_modEq ((a : Int) - b) m).add_right (b : Int)
  simpa using this

/-- A remainder with the defining property is the difference. -/
theorem subMod_unique {m r a b : Nat} (hr : r < m) (h : r + b ≡ a [MOD m]) :
    subMod m a b = r := by
  have h1 := subMod_add_modEq (by omega : 0 < m) a b
  have h2 : subMod m a b ≡ r [MOD m] := Nat.ModEq.add_right_cancel' b (h1.trans h.symm)
  exact Nat.ModEq.eq_of_lt_of_lt h2 (subMod_lt (by omega) a b) hr

@[simp] theorem subMod_self {m : Nat} (hm : 0 < m) (a : Nat) : subMod m a a = 0 :=
  subMod_unique hm (by simp [Nat.ModEq])

/-- The difference of two residues, without wrap and with it. -/
theorem subMod_of_lt {m a b : Nat} (ha : a < m) (hb : b < m) :
    subMod m a b = if b ≤ a then a - b else a + m - b := by
  split
  · exact subMod_unique (by omega) (by rw [Nat.sub_add_cancel (by omega)])
  · refine subMod_unique (by omega) ?_
    rw [Nat.sub_add_cancel (by omega)]
    simp [Nat.ModEq]

theorem subMod_eq_zero_iff {m a b : Nat} (ha : a < m) (hb : b < m) :
    subMod m a b = 0 ↔ a = b := by
  rw [subMod_of_lt ha hb]
  split <;> omega

/-- `n ≤ 2 ^ ceil(log2 n)` (00_scope.md R7). -/
theorem le_two_pow_ceilLog2 (n : Nat) : n ≤ 2 ^ ceilLog2 n := by
  unfold ceilLog2
  split
  · simpa using ‹n ≤ 1›
  · have := Nat.lt_log2_self (n := n - 1)
    omega

/-- `2 ^ CNT_W` is at least twice the number of slots (20_memory.md R85). -/
theorem two_mul_le_two_pow_cntW (q : Nat) : 2 * (q + 1) ≤ 2 ^ cntW q := by
  have := le_two_pow_ceilLog2 (q + 1)
  unfold cntW
  rw [pow_succ]
  omega

theorem flowMod_gt (d : Dir) (s : State) : 2 * s.qcap d + 1 < flowMod d s := by
  have := two_mul_le_two_pow_cntW (s.qcap d)
  unfold flowMod
  omega

theorem flowMod_pos (d : Dir) (s : State) : 0 < flowMod d s := by
  have := flowMod_gt d s
  omega

end Sys2Proof.Machine
end

