-- ==== Sys2Proof/Laws/Memory.lean ====
section
/-! SUPPORT. Laws of the slot memory (20_memory.md R72): read after write, and the canonical form. -/

namespace Sys2Proof.Machine

theorem Memory.wf_nil : Memory.wf [] := ⟨List.Pairwise.nil, fun _ h => nomatch h⟩

theorem Memory.wf_tail {c : Nat × Block} {m : Memory} (h : Memory.wf (c :: m)) : Memory.wf m :=
  ⟨(List.pairwise_cons.1 h.1).2, fun x hx => h.2 x (List.mem_cons_of_mem _ hx)⟩

theorem Memory.read_of_lt {m : Memory} {i : Nat} (h : ∀ c ∈ m, i < c.1) :
    Memory.read m i = Memory.unwritten := by
  induction m with
  | nil => rfl
  | cons c m ih =>
    have h1 := h c List.mem_cons_self
    rw [Memory.read, if_neg (by omega)]
    exact ih fun x hx => h x (List.mem_cons_of_mem _ hx)

/-- The entries of a written memory are old ones or the new one. -/
theorem Memory.mem_write {m : Memory} {i : Nat} {v : Block} {c : Nat × Block}
    (h : c ∈ Memory.write m i v) : c ∈ m ∨ (c = (i, v) ∧ v ≠ Memory.unwritten) := by
  induction m with
  | nil =>
    unfold Memory.write at h
    split at h <;> simp_all
  | cons x m ih =>
    obtain ⟨a, b⟩ := x
    unfold Memory.write at h
    split at h
    · rcases List.mem_cons.1 h with h | h
      · exact .inl (h ▸ List.mem_cons_self)
      · rcases ih h with h | h
        · exact .inl (List.mem_cons_of_mem _ h)
        · exact .inr h
    · split at h <;> split at h <;> simp_all <;> tauto

/-- A write keeps the canonical form. -/
theorem Memory.write_wf {m : Memory} (h : Memory.wf m) (i : Nat) (v : Block) :
    Memory.wf (Memory.write m i v) := by
  refine ⟨?_, fun c hc => ?_⟩
  · induction m with
    | nil =>
      unfold Memory.write
      split <;> simp
    | cons x m ih =>
      obtain ⟨a, b⟩ := x
      have hp := List.pairwise_cons.1 h.1
      unfold Memory.write
      split
      · refine List.pairwise_cons.2 ⟨fun c hc => ?_, ih (Memory.wf_tail h)⟩
        rcases Memory.mem_write hc with hc | ⟨rfl, _⟩
        · exact hp.1 c hc
        · assumption
      · split <;> split
        · exact hp.2
        · refine List.pairwise_cons.2 ⟨fun c hc => ?_, hp.2⟩
          have := hp.1 c hc
          simp_all
        · exact h.1
        · refine List.pairwise_cons.2 ⟨fun c hc => ?_, h.1⟩
          rcases List.mem_cons.1 hc with rfl | hc
          · simp; omega
          · have := hp.1 c hc
            simp at this ⊢
            omega
  · rcases Memory.mem_write hc with hc | ⟨rfl, hv⟩
    · exact h.2 c hc
    · exact hv

/-- Reading the slot that was written. -/
theorem Memory.read_write_same {m : Memory} (h : Memory.wf m) (i : Nat) (v : Block) :
    Memory.read (Memory.write m i v) i = v := by
  induction m with
  | nil =>
    unfold Memory.write
    split <;> simp_all [Memory.read]
  | cons x m ih =>
    obtain ⟨a, b⟩ := x
    have hp := List.pairwise_cons.1 h.1
    unfold Memory.write
    split
    · rw [Memory.read, if_neg (by omega)]
      exact ih (Memory.wf_tail h)
    · split <;> split
      · subst_vars
        exact Memory.read_of_lt fun c hc => hp.1 c hc
      · simp [Memory.read]
      · subst_vars
        refine Memory.read_of_lt fun c hc => ?_
        rcases List.mem_cons.1 hc with rfl | hc
        · simp; omega
        · have := hp.1 c hc
          simp at this
          omega
      · simp [Memory.read]

/-- Reading any other slot. -/
theorem Memory.read_write_other (m : Memory) {i j : Nat} (hij : j ≠ i) (v : Block) :
    Memory.read (Memory.write m i v) j = Memory.read m j := by
  induction m with
  | nil =>
    unfold Memory.write
    split <;> simp [Memory.read, hij.symm]
  | cons x m ih =>
    obtain ⟨a, b⟩ := x
    unfold Memory.write
    split
    · simp only [Memory.read, ih]
    · split <;> split <;> simp_all [Memory.read, Ne.symm]

end Sys2Proof.Machine
end

