-- ==== Sys2Proof/Laws/State.lean ====
section
/-! SUPPORT. One lemma per field and update of the state, all true by unfolding once. -/

namespace Sys2Proof.Machine

@[simp] theorem stream_rx (s : State) : s.stream .rx = s.rx := rfl

@[simp] theorem stream_tx (s : State) : s.stream .tx = s.tx := rfl

@[simp] theorem qcap_rx (s : State) : s.qcap .rx = s.par.qcapRx := rfl

@[simp] theorem qcap_tx (s : State) : s.qcap .tx = s.par.qcapTx := rfl

@[simp] theorem other_rx : Dir.rx.other = .tx := rfl

@[simp] theorem other_tx : Dir.tx.other = .rx := rfl

@[simp] theorem other_other (d : Dir) : d.other.other = d := by cases d <;> rfl

theorem other_ne (d : Dir) : d.other ≠ d := by cases d <;> decide

/-! ### `State.upd` -/

@[simp] theorem upd_stream (s : State) (d : Dir) (f : Stream → Stream) :
    (s.upd d f).stream d = f (s.stream d) := by
  cases d <;> rfl

@[simp] theorem upd_stream_other (s : State) (d : Dir) (f : Stream → Stream) :
    (s.upd d f).stream d.other = s.stream d.other := by
  cases d <;> rfl

theorem upd_stream_ne {d e : Dir} (h : e ≠ d) (s : State) (f : Stream → Stream) :
    (s.upd d f).stream e = s.stream e := by
  cases d <;> cases e <;> first | rfl | exact absurd rfl h

@[simp] theorem upd_rx_rx (s : State) (f : Stream → Stream) : (s.upd .rx f).rx = f s.rx := rfl

@[simp] theorem upd_rx_tx (s : State) (f : Stream → Stream) : (s.upd .rx f).tx = s.tx := rfl

@[simp] theorem upd_tx_rx (s : State) (f : Stream → Stream) : (s.upd .tx f).rx = s.rx := rfl

@[simp] theorem upd_tx_tx (s : State) (f : Stream → Stream) : (s.upd .tx f).tx = f s.tx := rfl

@[simp] theorem upd_qcap (s : State) (d e : Dir) (f : Stream → Stream) :
    (s.upd d f).qcap e = s.qcap e := by
  cases d <;> cases e <;> rfl

@[simp] theorem upd_par (s : State) (d : Dir) (f : Stream → Stream) :
    (s.upd d f).par = s.par := by
  cases d <;> rfl

@[simp] theorem upd_lastBlockFlag (s : State) (d : Dir) (f : Stream → Stream) :
    (s.upd d f).lastBlockFlag = s.lastBlockFlag := by
  cases d <;> rfl

@[simp] theorem upd_overrun (s : State) (d : Dir) (f : Stream → Stream) :
    (s.upd d f).overrun = s.overrun := by
  cases d <;> rfl

@[simp] theorem upd_underrun (s : State) (d : Dir) (f : Stream → Stream) :
    (s.upd d f).underrun = s.underrun := by
  cases d <;> rfl

@[simp] theorem upd_fillerSize (s : State) (d : Dir) (f : Stream → Stream) :
    (s.upd d f).fillerSize = s.fillerSize := by
  cases d <;> rfl

@[simp] theorem upd_fillerBuf (s : State) (d : Dir) (f : Stream → Stream) :
    (s.upd d f).fillerBuf = s.fillerBuf := by
  cases d <;> rfl

@[simp] theorem upd_periphEnabled (s : State) (d : Dir) (f : Stream → Stream) :
    (s.upd d f).periphEnabled = s.periphEnabled := by
  cases d <;> rfl

@[simp] theorem upd_fullDuplex (s : State) (d : Dir) (f : Stream → Stream) :
    (s.upd d f).fullDuplex = s.fullDuplex := by
  cases d <;> rfl

@[simp] theorem upd_rdPhase (s : State) (d : Dir) (f : Stream → Stream) :
    (s.upd d f).rdPhase = s.rdPhase := by
  cases d <;> rfl

@[simp] theorem upd_rdTimer (s : State) (d : Dir) (f : Stream → Stream) :
    (s.upd d f).rdTimer = s.rdTimer := by
  cases d <;> rfl

@[simp] theorem upd_wrPhase (s : State) (d : Dir) (f : Stream → Stream) :
    (s.upd d f).wrPhase = s.wrPhase := by
  cases d <;> rfl

@[simp] theorem upd_wrTimer (s : State) (d : Dir) (f : Stream → Stream) :
    (s.upd d f).wrTimer = s.wrTimer := by
  cases d <;> rfl

@[simp] theorem upd_wrH (s : State) (d : Dir) (f : Stream → Stream) :
    (s.upd d f).wrH = s.wrH := by
  cases d <;> rfl

@[simp] theorem upd_wrSz (s : State) (d : Dir) (f : Stream → Stream) :
    (s.upd d f).wrSz = s.wrSz := by
  cases d <;> rfl

@[simp] theorem upd_log (s : State) (d : Dir) (f : Stream → Stream) :
    (s.upd d f).log = s.log := by
  cases d <;> rfl

@[simp] theorem upd_pending (s : State) (d : Dir) (f : Stream → Stream) :
    (s.upd d f).pending = s.pending := by
  cases d <;> rfl

@[simp] theorem upd_rxPool (s : State) (d : Dir) (f : Stream → Stream) :
    (s.upd d f).rxPool = s.rxPool := by
  cases d <;> rfl

@[simp] theorem upd_txPool (s : State) (d : Dir) (f : Stream → Stream) :
    (s.upd d f).txPool = s.txPool := by
  cases d <;> rfl

@[simp] theorem upd_draws (s : State) (d : Dir) (f : Stream → Stream) :
    (s.upd d f).draws = s.draws := by
  cases d <;> rfl

@[simp] theorem upd_app (s : State) (d : Dir) (f : Stream → Stream) :
    (s.upd d f).app = s.app := by
  cases d <;> rfl

/-! ### `record` -/

@[simp] theorem record_log (e : Event) (s : State) : (record e s).log = s.log ++ [e] := rfl

@[simp] theorem record_stream (e : Event) (s : State) (d : Dir) :
    (record e s).stream d = s.stream d := by
  cases d <;> rfl

@[simp] theorem record_qcap (e : Event) (s : State) (d : Dir) :
    (record e s).qcap d = s.qcap d := by
  cases d <;> rfl

@[simp] theorem record_rx (e : Event) (s : State) : (record e s).rx = s.rx := rfl

@[simp] theorem record_tx (e : Event) (s : State) : (record e s).tx = s.tx := rfl

@[simp] theorem record_par (e : Event) (s : State) : (record e s).par = s.par := rfl

@[simp] theorem record_lastBlockFlag (e : Event) (s : State) : (record e s).lastBlockFlag = s.lastBlockFlag := rfl

@[simp] theorem record_overrun (e : Event) (s : State) : (record e s).overrun = s.overrun := rfl

@[simp] theorem record_underrun (e : Event) (s : State) : (record e s).underrun = s.underrun := rfl

@[simp] theorem record_fillerSize (e : Event) (s : State) : (record e s).fillerSize = s.fillerSize := rfl

@[simp] theorem record_fillerBuf (e : Event) (s : State) : (record e s).fillerBuf = s.fillerBuf := rfl

@[simp] theorem record_periphEnabled (e : Event) (s : State) : (record e s).periphEnabled = s.periphEnabled := rfl

@[simp] theorem record_fullDuplex (e : Event) (s : State) : (record e s).fullDuplex = s.fullDuplex := rfl

@[simp] theorem record_rdPhase (e : Event) (s : State) : (record e s).rdPhase = s.rdPhase := rfl

@[simp] theorem record_rdTimer (e : Event) (s : State) : (record e s).rdTimer = s.rdTimer := rfl

@[simp] theorem record_wrPhase (e : Event) (s : State) : (record e s).wrPhase = s.wrPhase := rfl

@[simp] theorem record_wrTimer (e : Event) (s : State) : (record e s).wrTimer = s.wrTimer := rfl

@[simp] theorem record_wrH (e : Event) (s : State) : (record e s).wrH = s.wrH := rfl

@[simp] theorem record_wrSz (e : Event) (s : State) : (record e s).wrSz = s.wrSz := rfl

@[simp] theorem record_pending (e : Event) (s : State) : (record e s).pending = s.pending := rfl

@[simp] theorem record_rxPool (e : Event) (s : State) : (record e s).rxPool = s.rxPool := rfl

@[simp] theorem record_txPool (e : Event) (s : State) : (record e s).txPool = s.txPool := rfl

@[simp] theorem record_draws (e : Event) (s : State) : (record e s).draws = s.draws := rfl

@[simp] theorem record_app (e : Event) (s : State) : (record e s).app = s.app := rfl

/-! ### `clearLoss` -/

@[simp] theorem clearLoss_rx (d : Dir) (s : State) : (clearLoss d s).rx = s.rx := by
  first | rfl | (cases d <;> rfl)

@[simp] theorem clearLoss_tx (d : Dir) (s : State) : (clearLoss d s).tx = s.tx := by
  first | rfl | (cases d <;> rfl)

@[simp] theorem clearLoss_par (d : Dir) (s : State) : (clearLoss d s).par = s.par := by
  first | rfl | (cases d <;> rfl)

@[simp] theorem clearLoss_lastBlockFlag (d : Dir) (s : State) : (clearLoss d s).lastBlockFlag = s.lastBlockFlag := by
  first | rfl | (cases d <;> rfl)

@[simp] theorem clearLoss_fillerSize (d : Dir) (s : State) : (clearLoss d s).fillerSize = s.fillerSize := by
  first | rfl | (cases d <;> rfl)

@[simp] theorem clearLoss_fillerBuf (d : Dir) (s : State) : (clearLoss d s).fillerBuf = s.fillerBuf := by
  first | rfl | (cases d <;> rfl)

@[simp] theorem clearLoss_periphEnabled (d : Dir) (s : State) : (clearLoss d s).periphEnabled = s.periphEnabled := by
  first | rfl | (cases d <;> rfl)

@[simp] theorem clearLoss_fullDuplex (d : Dir) (s : State) : (clearLoss d s).fullDuplex = s.fullDuplex := by
  first | rfl | (cases d <;> rfl)

@[simp] theorem clearLoss_rdPhase (d : Dir) (s : State) : (clearLoss d s).rdPhase = s.rdPhase := by
  first | rfl | (cases d <;> rfl)

@[simp] theorem clearLoss_rdTimer (d : Dir) (s : State) : (clearLoss d s).rdTimer = s.rdTimer := by
  first | rfl | (cases d <;> rfl)

@[simp] theorem clearLoss_wrPhase (d : Dir) (s : State) : (clearLoss d s).wrPhase = s.wrPhase := by
  first | rfl | (cases d <;> rfl)

@[simp] theorem clearLoss_wrTimer (d : Dir) (s : State) : (clearLoss d s).wrTimer = s.wrTimer := by
  first | rfl | (cases d <;> rfl)

@[simp] theorem clearLoss_wrH (d : Dir) (s : State) : (clearLoss d s).wrH = s.wrH := by
  first | rfl | (cases d <;> rfl)

@[simp] theorem clearLoss_wrSz (d : Dir) (s : State) : (clearLoss d s).wrSz = s.wrSz := by
  first | rfl | (cases d <;> rfl)

@[simp] theorem clearLoss_log (d : Dir) (s : State) : (clearLoss d s).log = s.log := by
  first | rfl | (cases d <;> rfl)

@[simp] theorem clearLoss_pending (d : Dir) (s : State) : (clearLoss d s).pending = s.pending := by
  first | rfl | (cases d <;> rfl)

@[simp] theorem clearLoss_rxPool (d : Dir) (s : State) : (clearLoss d s).rxPool = s.rxPool := by
  first | rfl | (cases d <;> rfl)

@[simp] theorem clearLoss_txPool (d : Dir) (s : State) : (clearLoss d s).txPool = s.txPool := by
  first | rfl | (cases d <;> rfl)

@[simp] theorem clearLoss_draws (d : Dir) (s : State) : (clearLoss d s).draws = s.draws := by
  first | rfl | (cases d <;> rfl)

@[simp] theorem clearLoss_app (d : Dir) (s : State) : (clearLoss d s).app = s.app := by
  first | rfl | (cases d <;> rfl)

@[simp] theorem clearLoss_stream (d : Dir) (s : State) (e : Dir) :
    (clearLoss d s).stream e = s.stream e := by
  cases e <;> first | rfl | (cases d <;> rfl)

@[simp] theorem clearLoss_qcap (d : Dir) (s : State) (e : Dir) :
    (clearLoss d s).qcap e = s.qcap e := by
  cases e <;> first | rfl | (cases d <;> rfl)

@[simp] theorem clearLoss_overrun (d : Dir) (s : State) :
    (clearLoss d s).overrun = if d = .rx then false else s.overrun := by
  cases d <;> rfl

@[simp] theorem clearLoss_underrun (d : Dir) (s : State) :
    (clearLoss d s).underrun = if d = .tx then false else s.underrun := by
  cases d <;> rfl

/-! ### `clearLast` -/

@[simp] theorem clearLast_rx (d : Dir) (s : State) : (clearLast d s).rx = s.rx := by
  first | rfl | (cases d <;> rfl)

@[simp] theorem clearLast_tx (d : Dir) (s : State) : (clearLast d s).tx = s.tx := by
  first | rfl | (cases d <;> rfl)

@[simp] theorem clearLast_par (d : Dir) (s : State) : (clearLast d s).par = s.par := by
  first | rfl | (cases d <;> rfl)

@[simp] theorem clearLast_overrun (d : Dir) (s : State) : (clearLast d s).overrun = s.overrun := by
  first | rfl | (cases d <;> rfl)

@[simp] theorem clearLast_underrun (d : Dir) (s : State) : (clearLast d s).underrun = s.underrun := by
  first | rfl | (cases d <;> rfl)

@[simp] theorem clearLast_fillerSize (d : Dir) (s : State) : (clearLast d s).fillerSize = s.fillerSize := by
  first | rfl | (cases d <;> rfl)

@[simp] theorem clearLast_fillerBuf (d : Dir) (s : State) : (clearLast d s).fillerBuf = s.fillerBuf := by
  first | rfl | (cases d <;> rfl)

@[simp] theorem clearLast_periphEnabled (d : Dir) (s : State) : (clearLast d s).periphEnabled = s.periphEnabled := by
  first | rfl | (cases d <;> rfl)

@[simp] theorem clearLast_fullDuplex (d : Dir) (s : State) : (clearLast d s).fullDuplex = s.fullDuplex := by
  first | rfl | (cases d <;> rfl)

@[simp] theorem clearLast_rdPhase (d : Dir) (s : State) : (clearLast d s).rdPhase = s.rdPhase := by
  first | rfl | (cases d <;> rfl)

@[simp] theorem clearLast_rdTimer (d : Dir) (s : State) : (clearLast d s).rdTimer = s.rdTimer := by
  first | rfl | (cases d <;> rfl)

@[simp] theorem clearLast_wrPhase (d : Dir) (s : State) : (clearLast d s).wrPhase = s.wrPhase := by
  first | rfl | (cases d <;> rfl)

@[simp] theorem clearLast_wrTimer (d : Dir) (s : State) : (clearLast d s).wrTimer = s.wrTimer := by
  first | rfl | (cases d <;> rfl)

@[simp] theorem clearLast_wrH (d : Dir) (s : State) : (clearLast d s).wrH = s.wrH := by
  first | rfl | (cases d <;> rfl)

@[simp] theorem clearLast_wrSz (d : Dir) (s : State) : (clearLast d s).wrSz = s.wrSz := by
  first | rfl | (cases d <;> rfl)

@[simp] theorem clearLast_log (d : Dir) (s : State) : (clearLast d s).log = s.log := by
  first | rfl | (cases d <;> rfl)

@[simp] theorem clearLast_pending (d : Dir) (s : State) : (clearLast d s).pending = s.pending := by
  first | rfl | (cases d <;> rfl)

@[simp] theorem clearLast_rxPool (d : Dir) (s : State) : (clearLast d s).rxPool = s.rxPool := by
  first | rfl | (cases d <;> rfl)

@[simp] theorem clearLast_txPool (d : Dir) (s : State) : (clearLast d s).txPool = s.txPool := by
  first | rfl | (cases d <;> rfl)

@[simp] theorem clearLast_draws (d : Dir) (s : State) : (clearLast d s).draws = s.draws := by
  first | rfl | (cases d <;> rfl)

@[simp] theorem clearLast_app (d : Dir) (s : State) : (clearLast d s).app = s.app := by
  first | rfl | (cases d <;> rfl)

@[simp] theorem clearLast_stream (d : Dir) (s : State) (e : Dir) :
    (clearLast d s).stream e = s.stream e := by
  cases e <;> first | rfl | (cases d <;> rfl)

@[simp] theorem clearLast_qcap (d : Dir) (s : State) (e : Dir) :
    (clearLast d s).qcap e = s.qcap e := by
  cases e <;> first | rfl | (cases d <;> rfl)

@[simp] theorem clearLast_lastBlockFlag (d : Dir) (s : State) :
    (clearLast d s).lastBlockFlag = if d = .tx then false else s.lastBlockFlag := by
  cases d <;> rfl

/-! ### `setPoolList` -/

@[simp] theorem setPoolList_rx (d : Dir) (l : List PoolAnswer) (s : State) : (setPoolList d l s).rx = s.rx := by
  first | rfl | (cases d <;> rfl)

@[simp] theorem setPoolList_tx (d : Dir) (l : List PoolAnswer) (s : State) : (setPoolList d l s).tx = s.tx := by
  first | rfl | (cases d <;> rfl)

@[simp] theorem setPoolList_par (d : Dir) (l : List PoolAnswer) (s : State) : (setPoolList d l s).par = s.par := by
  first | rfl | (cases d <;> rfl)

@[simp] theorem setPoolList_lastBlockFlag (d : Dir) (l : List PoolAnswer) (s : State) : (setPoolList d l s).lastBlockFlag = s.lastBlockFlag := by
  first | rfl | (cases d <;> rfl)

@[simp] theorem setPoolList_overrun (d : Dir) (l : List PoolAnswer) (s : State) : (setPoolList d l s).overrun = s.overrun := by
  first | rfl | (cases d <;> rfl)

@[simp] theorem setPoolList_underrun (d : Dir) (l : List PoolAnswer) (s : State) : (setPoolList d l s).underrun = s.underrun := by
  first | rfl | (cases d <;> rfl)

@[simp] theorem setPoolList_fillerSize (d : Dir) (l : List PoolAnswer) (s : State) : (setPoolList d l s).fillerSize = s.fillerSize := by
  first | rfl | (cases d <;> rfl)

@[simp] theorem setPoolList_fillerBuf (d : Dir) (l : List PoolAnswer) (s : State) : (setPoolList d l s).fillerBuf = s.fillerBuf := by
  first | rfl | (cases d <;> rfl)

@[simp] theorem setPoolList_periphEnabled (d : Dir) (l : List PoolAnswer) (s : State) : (setPoolList d l s).periphEnabled = s.periphEnabled := by
  first | rfl | (cases d <;> rfl)

@[simp] theorem setPoolList_fullDuplex (d : Dir) (l : List PoolAnswer) (s : State) : (setPoolList d l s).fullDuplex = s.fullDuplex := by
  first | rfl | (cases d <;> rfl)

@[simp] theorem setPoolList_rdPhase (d : Dir) (l : List PoolAnswer) (s : State) : (setPoolList d l s).rdPhase = s.rdPhase := by
  first | rfl | (cases d <;> rfl)

@[simp] theorem setPoolList_rdTimer (d : Dir) (l : List PoolAnswer) (s : State) : (setPoolList d l s).rdTimer = s.rdTimer := by
  first | rfl | (cases d <;> rfl)

@[simp] theorem setPoolList_wrPhase (d : Dir) (l : List PoolAnswer) (s : State) : (setPoolList d l s).wrPhase = s.wrPhase := by
  first | rfl | (cases d <;> rfl)

@[simp] theorem setPoolList_wrTimer (d : Dir) (l : List PoolAnswer) (s : State) : (setPoolList d l s).wrTimer = s.wrTimer := by
  first | rfl | (cases d <;> rfl)

@[simp] theorem setPoolList_wrH (d : Dir) (l : List PoolAnswer) (s : State) : (setPoolList d l s).wrH = s.wrH := by
  first | rfl | (cases d <;> rfl)

@[simp] theorem setPoolList_wrSz (d : Dir) (l : List PoolAnswer) (s : State) : (setPoolList d l s).wrSz = s.wrSz := by
  first | rfl | (cases d <;> rfl)

@[simp] theorem setPoolList_log (d : Dir) (l : List PoolAnswer) (s : State) : (setPoolList d l s).log = s.log := by
  first | rfl | (cases d <;> rfl)

@[simp] theorem setPoolList_pending (d : Dir) (l : List PoolAnswer) (s : State) : (setPoolList d l s).pending = s.pending := by
  first | rfl | (cases d <;> rfl)

@[simp] theorem setPoolList_draws (d : Dir) (l : List PoolAnswer) (s : State) : (setPoolList d l s).draws = s.draws := by
  first | rfl | (cases d <;> rfl)

@[simp] theorem setPoolList_app (d : Dir) (l : List PoolAnswer) (s : State) : (setPoolList d l s).app = s.app := by
  first | rfl | (cases d <;> rfl)

@[simp] theorem setPoolList_stream (d : Dir) (l : List PoolAnswer) (s : State) (e : Dir) :
    (setPoolList d l s).stream e = s.stream e := by
  cases e <;> first | rfl | (cases d <;> rfl)

@[simp] theorem setPoolList_qcap (d : Dir) (l : List PoolAnswer) (s : State) (e : Dir) :
    (setPoolList d l s).qcap e = s.qcap e := by
  cases e <;> first | rfl | (cases d <;> rfl)

@[simp] theorem setPoolList_poolList (d : Dir) (l : List PoolAnswer) (s : State) :
    poolList d (setPoolList d l s) = l := by
  cases d <;> rfl

@[simp] theorem setPoolList_poolList_other (d : Dir) (l : List PoolAnswer) (s : State) :
    poolList d.other (setPoolList d l s) = poolList d.other s := by
  cases d <;> rfl

/-! ### The output trace and the responses -/

@[simp] theorem callsOf_append (l m : List Event) : callsOf (l ++ m) = callsOf l ++ callsOf m :=
  List.filterMap_append

@[simp] theorem respsOf_append (l m : List Event) : respsOf (l ++ m) = respsOf l ++ respsOf m :=
  List.filterMap_append

@[simp] theorem trace_emit (c : Call) (s : State) : trace (emit c s) = trace s ++ [c] := by
  simp [trace, emit, callsOf, Event.call?]

@[simp] theorem responses_emit (c : Call) (s : State) : responses (emit c s) = responses s := by
  simp [responses, emit, respsOf, Event.resp?]

@[simp] theorem trace_respond (ch : Channel) (k : Code) (s : State) :
    trace (respond ch k s) = trace s := by
  simp [trace, respond, callsOf, Event.call?]

@[simp] theorem responses_respond (ch : Channel) (k : Code) (s : State) :
    responses (respond ch k s) =
      responses s ++ [{ ch := ch, code := k, blk := NULL, size := 0, sw := 0 }] := by
  simp [responses, respond, respsOf, Event.resp?]

end Sys2Proof.Machine
end

