-- ==== Sys2Proof/Laws/Queue.lean ====
section
/-! SUPPORT. What Push, Pop, DropQueue, Give, Take and SYNC can do (40_queue_flow.md R141 to R151), said
once for a stream whose registers are in their bounds. -/

namespace Sys2Proof.Machine

/-! ### Congruence: the derived values read the parameters and one stream -/

section congr
variable {d : Dir} {s t : State} (hp : t.par = s.par) (hs : t.stream d = s.stream d)

include hp in
theorem qcap_congr : t.qcap d = s.qcap d := by
  cases d <;> simp [hp]

include hp in
theorem flowMod_congr : flowMod d t = flowMod d s := by
  simp [flowMod, qcap_congr hp]

include hp in
theorem initFlow_congr : initFlow d t = initFlow d s := by
  cases d <;> simp [initFlow, hp]

include hp hs in
theorem occ_congr : occ d t = occ d s := by
  simp [occ, hs, qcap_congr hp]

include hp hs in
theorem flowTrue_congr : flowTrue d t = flowTrue d s := by
  simp [flowTrue, hs, flowMod_congr hp, initFlow_congr hp]

include hp hs in
theorem flowView_congr : flowView d t = flowView d s := by
  simp [flowView, hs, flowMod_congr hp, initFlow_congr hp]

include hp hs in
theorem queued_congr : queued d t = queued d s := by
  simp [queued, memRead, hs, qcap_congr hp, occ_congr hp hs]

include hp hs in
theorem bounds_congr (h : StreamBounds d s) : StreamBounds d t := by
  constructor <;> simp only [hs, qcap_congr hp, flowMod_congr hp]
  exacts [h.head_le, h.tail_le, h.give_lt, h.take_lt, h.view_lt, h.slots_wf, h.slots_le]

include hp hs in
theorem streamInv_congr (h : StreamInv d s) : StreamInv d t := by
  constructor
  · exact bounds_congr hp hs h.bounds
  all_goals
    simp only [hs, hp, qcap_congr hp, occ_congr hp hs, flowTrue_congr hp hs, flowView_congr hp hs,
      queued_congr hp hs, PoolHandle]
  exacts [h.armed_iff, h.active_iff, h.inactive, h.active_fits, h.view_le, h.flow_le, h.off, h.queued_pool]

end congr

/-- The queue depends on the parameters and on the slots and indices of the stream. -/
theorem queued_eq_of {d : Dir} {s t : State} (hp : t.par = s.par)
    (hsl : (t.stream d).slots = (s.stream d).slots) (hh : (t.stream d).head = (s.stream d).head)
    (ht : (t.stream d).tail = (s.stream d).tail) : queued d t = queued d s := by
  simp [queued, memRead, occ, hsl, hh, ht, qcap_congr hp]

/-! ### The Block Queue -/

theorem nextIndex_le (d : Dir) (i : Nat) (s : State) : nextIndex d i s ≤ s.qcap d := by
  have := Nat.mod_lt (i + 1) (by omega : 0 < s.qcap d + 1)
  unfold nextIndex
  omega

theorem nextIndex_eq {d : Dir} {i : Nat} {s : State} (h : i ≤ s.qcap d) :
    nextIndex d i s = if i = s.qcap d then 0 else i + 1 := by
  unfold nextIndex
  split
  · subst_vars
    simp
  · exact Nat.mod_eq_of_lt (by omega)

theorem occ_le (d : Dir) (s : State) : occ d s ≤ s.qcap d := by
  have := subMod_lt (by omega : 0 < s.qcap d + 1) (s.stream d).head (s.stream d).tail
  unfold occ
  omega

theorem occ_eq {d : Dir} {s : State} (h : StreamBounds d s) :
    occ d s = if (s.stream d).tail ≤ (s.stream d).head then (s.stream d).head - (s.stream d).tail
      else (s.stream d).head + (s.qcap d + 1) - (s.stream d).tail := by
  have h1 := h.head_le
  have h2 := h.tail_le
  exact subMod_of_lt (by omega) (by omega)

/-- The queue is empty exactly when the indices agree (R144). -/
theorem occ_eq_zero_iff {d : Dir} {s : State} (h : StreamBounds d s) :
    occ d s = 0 ↔ (s.stream d).head = (s.stream d).tail := by
  have h1 := h.head_le
  have h2 := h.tail_le
  exact subMod_eq_zero_iff (by omega) (by omega)

@[simp] theorem queued_length (d : Dir) (s : State) : (queued d s).length = occ d s := by
  simp [queued]

theorem queued_eq_nil_iff (d : Dir) (s : State) : queued d s = [] ↔ occ d s = 0 := by
  rw [← List.length_eq_zero_iff, queued_length]

/-- The slots a queue occupies do not include the one Push writes. -/
theorem slot_index_ne_head {d : Dir} {s : State} (h : StreamBounds d s) {k : Nat}
    (hk : k < occ d s) : ((s.stream d).tail + k) % (s.qcap d + 1) ≠ (s.stream d).head := by
  have h1 := h.head_le
  have h2 := h.tail_le
  rw [occ_eq h] at hk
  split at hk
  · rw [Nat.mod_eq_of_lt (by omega)]
    omega
  · by_cases hw : (s.stream d).tail + k < s.qcap d + 1
    · rw [Nat.mod_eq_of_lt hw]
      omega
    · rw [Nat.mod_eq_sub_mod (by omega), Nat.mod_eq_of_lt (by omega)]
      omega

theorem slot_index_occ {d : Dir} {s : State} (h : StreamBounds d s) :
    ((s.stream d).tail + occ d s) % (s.qcap d + 1) = (s.stream d).head := by
  have h1 := h.head_le
  have h2 := h.tail_le
  rw [occ_eq h]
  split
  · rw [Nat.mod_eq_of_lt (by omega)]
    omega
  · rw [Nat.mod_eq_sub_mod (by omega), Nat.mod_eq_of_lt (by omega)]
    omega

/-- The stream after a Push that found room (R141). -/
def pushed (d : Dir) (b : Block) (s : State) : State :=
  s.upd d fun t =>
    { t with slots := Memory.write t.slots t.head b, head := nextIndex d t.head s }

/-- Push on a full queue is Full (R141, R144). -/
theorem push_full {d : Dir} {s : State} (h : StreamBounds d s) (b : Block) :
    push d b s = none ↔ occ d s = s.qcap d := by
  have h1 := h.head_le
  have h2 := h.tail_le
  have hn : push d b s = none ↔ nextIndex d (s.stream d).head s = (s.stream d).tail := by
    unfold push
    split <;> simp [*]
  rw [hn, nextIndex_eq h1, occ_eq h]
  split <;> split <;> omega

/-- All that Push can do (R141). -/
theorem push_cases {d : Dir} {s : State} (h : StreamBounds d s) (b : Block) :
    (push d b s = none ∧ occ d s = s.qcap d) ∨
    (push d b s = some (pushed d b s) ∧ occ d s < s.qcap d) := by
  by_cases hf : push d b s = none
  · exact .inl ⟨hf, (push_full h b).1 hf⟩
  · refine .inr ⟨?_, lt_of_le_of_ne (occ_le d s) fun he => hf ((push_full h b).2 he)⟩
    unfold push at hf ⊢
    split at hf
    · exact absurd rfl hf
    · rw [if_neg (by assumption)]
      cases d <;> rfl

theorem pushed_par (d : Dir) (b : Block) (s : State) : (pushed d b s).par = s.par := by
  simp [pushed]

theorem pushed_qcap (d e : Dir) (b : Block) (s : State) : (pushed d b s).qcap e = s.qcap e := by
  simp [pushed]

theorem pushed_bounds {d : Dir} {s : State} (h : StreamBounds d s) (b : Block) :
    StreamBounds d (pushed d b s) := by
  have hm : flowMod d (pushed d b s) = flowMod d s := flowMod_congr (pushed_par d b s)
  constructor <;> (try simp only [hm, pushed_qcap]) <;> simp only [pushed, upd_stream]
  · exact nextIndex_le _ _ _
  · exact h.tail_le
  · exact h.give_lt
  · exact h.take_lt
  · exact h.view_lt
  · exact Memory.write_wf h.slots_wf _ _
  · intro c hc
    rcases Memory.mem_write hc with hc | ⟨rfl, _⟩
    · exact h.slots_le c hc
    · exact h.head_le

theorem pushed_occ {d : Dir} {s : State} (h : StreamBounds d s) (b : Block)
    (hr : occ d s < s.qcap d) : occ d (pushed d b s) = occ d s + 1 := by
  have h1 := h.head_le
  have h2 := h.tail_le
  rw [occ_eq (pushed_bounds h b), pushed_qcap]
  rw [occ_eq h] at hr ⊢
  simp only [pushed, upd_stream, nextIndex_eq h1]
  split <;> split at * <;> split at * <;> omega

/-- A pushed Block goes to the end of the queue (R146). -/
theorem pushed_queued {d : Dir} {s : State} (h : StreamBounds d s) (b : Block)
    (hr : occ d s < s.qcap d) : queued d (pushed d b s) = queued d s ++ [b] := by
  rw [queued, pushed_occ h b hr, List.range_succ, List.map_append, pushed_qcap]
  congr 1
  · refine List.map_congr_left fun k hk => ?_
    have hne := slot_index_ne_head h (List.mem_range.1 hk)
    simp only [memRead, pushed, upd_stream]
    exact Memory.read_write_other _ hne b
  · have := slot_index_occ h
    simp only [memRead, pushed, upd_stream, List.map_cons, List.map_nil, this]
    rw [Memory.read_write_same h.slots_wf]

/-- The stream after a Pop that found a Block (R142). -/
def popped (d : Dir) (s : State) : State :=
  s.upd d fun t => { t with tail := nextIndex d t.tail s }

theorem popped_par (d : Dir) (s : State) : (popped d s).par = s.par := by
  simp [popped]

theorem popped_qcap (d e : Dir) (s : State) : (popped d s).qcap e = s.qcap e := by
  simp [popped]

theorem popped_bounds {d : Dir} {s : State} (h : StreamBounds d s) :
    StreamBounds d (popped d s) := by
  have hm : flowMod d (popped d s) = flowMod d s := flowMod_congr (popped_par d s)
  constructor <;> (try simp only [hm, popped_qcap]) <;> simp only [popped, upd_stream]
  · exact h.head_le
  · exact nextIndex_le _ _ _
  · exact h.give_lt
  · exact h.take_lt
  · exact h.view_lt
  · exact h.slots_wf
  · exact h.slots_le

theorem popped_occ {d : Dir} {s : State} (h : StreamBounds d s) (hr : 0 < occ d s) :
    occ d (popped d s) + 1 = occ d s := by
  have h1 := h.head_le
  have h2 := h.tail_le
  rw [occ_eq (popped_bounds h), popped_qcap]
  rw [occ_eq h] at hr ⊢
  simp only [popped, upd_stream, nextIndex_eq h2]
  split <;> split at * <;> split at * <;> omega

/-- Pop takes the oldest Block (R142, R146). -/
theorem queued_pop {d : Dir} {s : State} (h : StreamBounds d s) (hr : 0 < occ d s) :
    queued d s = memRead d (s.stream d).tail s :: queued d (popped d s) := by
  have h2 := h.tail_le
  rw [queued, ← popped_occ h hr, List.range_succ_eq_map, List.map_cons, List.map_map, queued]
  congr 1
  · rw [Nat.add_zero, Nat.mod_eq_of_lt (by omega)]
  · refine List.map_congr_left fun k _ => ?_
    simp only [Function.comp, memRead, popped, upd_stream, upd_qcap, nextIndex]
    congr 1
    rw [Nat.mod_add_mod]
    congr 1
    omega

/-- All that Pop can do (R142). -/
theorem pop_cases {d : Dir} {s : State} (h : StreamBounds d s) :
    (pop d s = none ∧ occ d s = 0 ∧ queued d s = []) ∨
    (∃ b, pop d s = some (b, popped d s) ∧ 0 < occ d s ∧
      queued d s = b :: queued d (popped d s)) := by
  by_cases hz : occ d s = 0
  · refine .inl ⟨?_, hz, (queued_eq_nil_iff d s).2 hz⟩
    rw [pop, if_pos ((occ_eq_zero_iff h).1 hz)]
  · have hr : 0 < occ d s := Nat.pos_of_ne_zero hz
    refine .inr ⟨_, ?_, hr, queued_pop h hr⟩
    rw [pop, if_neg fun he => hz ((occ_eq_zero_iff h).2 he)]
    cases d <;> rfl

/-- Moving `tail` up to a `head` it agrees with changes nothing. -/
theorem upd_tail_self {d : Dir} {s : State} (h : (s.stream d).head = (s.stream d).tail) :
    (s.upd d fun t => { t with tail := t.head }) = s := by
  rcases s with ⟨_, ⟨⟩, ⟨⟩, _⟩
  cases d <;> simp_all [State.upd, State.stream]

theorem record_popped (e : Event) (d : Dir) (s : State) :
    queued d (record e (popped d s)) = queued d (popped d s) :=
  queued_congr rfl (record_stream _ _ _)

theorem dropLoop_eq {d : Dir} (n : Nat) {s : State} (h : StreamBounds d s) (hn : occ d s ≤ n) :
    dropLoop d n s =
      { s.upd d (fun t => { t with tail := t.head }) with log := s.log ++ freesOf d (queued d s) } := by
  induction n generalizing s with
  | zero =>
    have hz : occ d s = 0 := by omega
    have he := (occ_eq_zero_iff h).1 hz
    rw [(queued_eq_nil_iff d s).2 hz, upd_tail_self he]
    simp [dropLoop, freesOf]
  | succ n ih =>
    rcases pop_cases h with ⟨hp, hz, hq⟩ | ⟨b, hp, hr, hq⟩
    · have he := (occ_eq_zero_iff h).1 hz
      rw [hq, upd_tail_self he]
      simp [dropLoop, hp, freesOf]
    · have hb : StreamBounds d (emit (.poolFree d b.h) (popped d s)) :=
        bounds_congr (s := popped d s) rfl (record_stream _ _ _) (popped_bounds h)
      have ho : occ d (emit (.poolFree d b.h) (popped d s)) ≤ n := by
        have h1 := popped_occ h hr
        have h2 : occ d (emit (.poolFree d b.h) (popped d s)) = occ d (popped d s) :=
          occ_congr rfl (record_stream _ _ _)
        omega
      simp only [dropLoop, hp]
      rw [ih hb ho, hq]
      have hqq : queued d (emit (.poolFree d b.h) (popped d s)) = queued d (popped d s) :=
        record_popped _ _ _
      rw [hqq]
      cases d <;> simp [freesOf, State.upd, emit, record, popped]

/-- All that DropQueue does (R143): `tail` moves up to `head`, and every queued Block is freed in
FIFO order. -/
theorem dropQueue_eq {d : Dir} {s : State} (h : StreamBounds d s) :
    dropQueue d s =
      { s.upd d (fun t => { t with tail := t.head }) with log := s.log ++ freesOf d (queued d s) } :=
  dropLoop_eq _ h (occ_le d s)

/-! ### The flow-control counter -/

theorem flowTrue_lt (d : Dir) (s : State) : flowTrue d s < flowMod d s :=
  subMod_lt (flowMod_pos d s) _ _

theorem give_par (d : Dir) (s : State) : (give d s).par = s.par := by
  simp [give]

theorem give_bounds {d : Dir} {s : State} (h : StreamBounds d s) : StreamBounds d (give d s) := by
  have hm : flowMod d (give d s) = flowMod d s := flowMod_congr (give_par d s)
  constructor <;> (try simp only [hm]) <;> simp only [give, upd_stream, upd_qcap]
  · exact h.head_le
  · exact h.tail_le
  · exact Nat.mod_lt _ (flowMod_pos d s)
  · exact h.take_lt
  · exact h.view_lt
  · exact h.slots_wf
  · exact h.slots_le

theorem give_occ (d : Dir) (s : State) : occ d (give d s) = occ d s := by
  simp [occ, give]

theorem give_queued (d : Dir) (s : State) : queued d (give d s) = queued d s :=
  queued_eq_of (give_par d s) (by simp [give]) (by simp [give]) (by simp [give])

/-- Give raises `flow_true` by one (R148). -/
theorem give_flowTrue {d : Dir} {s : State} (h : flowTrue d s < s.qcap d) :
    flowTrue d (give d s) = flowTrue d s + 1 := by
  have hm : flowMod d (give d s) = flowMod d s := flowMod_congr (give_par d s)
  have hi : initFlow d (give d s) = initFlow d s := initFlow_congr (give_par d s)
  have hg := flowMod_gt d s
  have h0 := subMod_add_modEq (flowMod_pos d s)
    (initFlow d s + (s.stream d).giveCnt) (s.stream d).takeCnt
  rw [flowTrue, hm, hi]
  simp only [give, upd_stream]
  refine subMod_unique (by omega) ?_
  have h1 := Nat.mod_modEq ((s.stream d).giveCnt + 1) (flowMod d s)
  have h2 : flowTrue d s + 1 + (s.stream d).takeCnt ≡
      initFlow d s + ((s.stream d).giveCnt + 1) [MOD flowMod d s] := by
    have := Nat.ModEq.add_right 1 h0
    rw [show flowTrue d s + 1 + (s.stream d).takeCnt =
      flowTrue d s + (s.stream d).takeCnt + 1 by omega, ← Nat.add_assoc]
    exact this
  exact h2.trans ((Nat.ModEq.refl _).add h1.symm)

theorem give_flowView (d : Dir) (s : State) : flowView d (give d s) = flowView d s := by
  rw [flowView, flowMod_congr (give_par d s), initFlow_congr (give_par d s)]
  simp [give, flowView]

theorem take_par (d : Dir) (s : State) : (take d s).par = s.par := by
  simp [take]

theorem take_bounds {d : Dir} {s : State} (h : StreamBounds d s) : StreamBounds d (take d s) := by
  have hm : flowMod d (take d s) = flowMod d s := flowMod_congr (take_par d s)
  constructor <;> (try simp only [hm]) <;> simp only [take, upd_stream, upd_qcap]
  · exact h.head_le
  · exact h.tail_le
  · exact h.give_lt
  · exact Nat.mod_lt _ (flowMod_pos d s)
  · exact h.view_lt
  · exact h.slots_wf
  · exact h.slots_le

theorem take_occ (d : Dir) (s : State) : occ d (take d s) = occ d s := by
  simp [occ, take]

theorem take_queued (d : Dir) (s : State) : queued d (take d s) = queued d s :=
  queued_eq_of (take_par d s) (by simp [take]) (by simp [take]) (by simp [take])

theorem subMod_take {m a b : Nat} (h : 0 < subMod m a b) (hm : 0 < m) :
    subMod m a ((b + 1) % m) + 1 = subMod m a b := by
  have h0 := subMod_add_modEq hm a b
  have hl := subMod_lt hm a b
  have : subMod m a ((b + 1) % m) = subMod m a b - 1 := by
    refine subMod_unique (by omega) ?_
    have h1 := Nat.mod_modEq (b + 1) m
    have h2 : subMod m a b - 1 + (b + 1) ≡ a [MOD m] := by
      rw [show subMod m a b - 1 + (b + 1) = subMod m a b + b by omega]
      exact h0
    exact ((Nat.ModEq.refl _).add h1).trans h2
  omega

/-- Take lowers `flow_true` by one (R149). -/
theorem take_flowTrue {d : Dir} {s : State} (h : 0 < flowTrue d s) :
    flowTrue d (take d s) + 1 = flowTrue d s := by
  rw [flowTrue, flowMod_congr (take_par d s), initFlow_congr (take_par d s)]
  simp only [take, upd_stream]
  exact subMod_take h (flowMod_pos d s)

/-- Take lowers `flow_view` by one (R149). -/
theorem take_flowView {d : Dir} {s : State} (h : 0 < flowView d s) :
    flowView d (take d s) + 1 = flowView d s := by
  rw [flowView, flowMod_congr (take_par d s), initFlow_congr (take_par d s)]
  simp only [take, upd_stream]
  exact subMod_take h (flowMod_pos d s)

/-- How far the view lags, when it does not lead (R151). -/
theorem viewLag_eq {d : Dir} {s : State} (h : flowView d s ≤ flowTrue d s) :
    viewLag d s = flowTrue d s - flowView d s := by
  have ht := subMod_add_modEq (flowMod_pos d s)
    (initFlow d s + (s.stream d).giveCnt) (s.stream d).takeCnt
  have hv := subMod_add_modEq (flowMod_pos d s)
    (initFlow d s + (s.stream d).giveView) (s.stream d).takeCnt
  have hl := flowTrue_lt d s
  refine subMod_unique (by omega) ?_
  change flowTrue d s + _ ≡ _ [MOD _] at ht
  change flowView d s + _ ≡ _ [MOD _] at hv
  refine Nat.ModEq.add_left_cancel' (initFlow d s) ?_
  refine Nat.ModEq.trans ?_ ht
  have := (Nat.ModEq.refl (n := flowMod d s) (flowTrue d s - flowView d s)).add hv.symm
  rw [show flowTrue d s - flowView d s + (flowView d s + (s.stream d).takeCnt) =
    flowTrue d s + (s.stream d).takeCnt by omega] at this
  rw [show initFlow d s + (flowTrue d s - flowView d s + (s.stream d).giveView) =
    flowTrue d s - flowView d s + (initFlow d s + (s.stream d).giveView) by omega]
  exact this

end Sys2Proof.Machine
end

