-- ==== Sys2Proof/Laws/Ops.lean ====
section
/-! SUPPORT. What the shared procedures do, each said once as one update of the state: FlowReset,
AbortWrite (40_queue_flow.md R152, 43_read_write.md R250), Arm, Disable, StopStream (41_trigger.md R171
to R173), FaultOne (60_exceptions.md R295), and the pool's answers (10_state.md R54). -/

namespace Sys2Proof.Machine

theorem emit_eq (c : Call) (s : State) : emit c s = { s with log := s.log ++ [.call c] } := rfl

theorem respond_eq (ch : Channel) (k : Code) (s : State) :
    respond ch k s =
      { s with
        log := s.log ++ [.resp { ch := ch, code := k, blk := NULL, size := 0, sw := 0 }] } := rfl

/-! ### Pool answers -/

/-- A lawful answer keeps R54 item 1. -/
theorem legalAnswer_lawful (held : List Handle) (s : State) (a : PoolAnswer) :
    legalAnswer s held (lawful held s a) = true := by
  unfold lawful
  split
  · assumption
  · rfl

/-- An answer that keeps R54 item 1 is given as proposed. -/
theorem lawful_of_legal {held : List Handle} {s : State} {a : PoolAnswer}
    (h : legalAnswer s held a = true) : lawful held s a = a := if_pos h

/-- Every answer of a pool keeps R54 item 1. -/
theorem legalAnswer_next (d : Dir) (held : List Handle) (s : State) :
    legalAnswer s held (nextAnswer d held s) = true := by
  unfold nextAnswer
  split <;> exact legalAnswer_lawful ..

/-- What a legal handle is. -/
theorem legalAnswer_block {s : State} {held : List Handle} {h : Handle} :
    legalAnswer s held (.block h) = true ↔
      PoolHandle s h ∧ h ∉ owned s ∧ h ∉ latched s ∧ h ∉ held := by
  simp only [legalAnswer, PoolHandle, Bool.and_eq_true, decide_eq_true_eq, Bool.not_eq_true',
    List.contains_eq_mem, decide_eq_false_iff_not, List.mem_append]
  tauto

/-- All that `ask` can do: the answer is the next listed one if it is legal, or a free one, and the
history and the environment's data are all that changes. -/
theorem ask_cases (d : Dir) (held : List Handle) (s : State) :
    (∃ a l, poolList d s = a :: l ∧
      ask d held s = (lawful held s a, { setPoolList d l s with
        log := s.log ++ [.call (.poolAlloc d), .alloc d (lawful held s a)] })) ∨
    (poolList d s = [] ∧
      ask d held s = (lawful held s (Config.poolDraw s.draws), { s with
        draws := s.draws + 1,
        log := s.log ++
          [.call (.poolAlloc d), .alloc d (lawful held s (Config.poolDraw s.draws))] })) := by
  cases hl : poolList d s with
  | nil =>
    refine .inr ⟨rfl, ?_⟩
    simp [ask, nextAnswer, spendAnswer, hl, emit, record]
  | cons a l =>
    refine .inl ⟨a, l, rfl, ?_⟩
    cases d <;> simp [ask, nextAnswer, spendAnswer, hl, emit, record, setPoolList]

/-! ### FlowReset and AbortWrite -/

theorem flowReset_rx (s : State) :
    flowReset .rx s =
      { s with
        rx := { s.rx with giveCnt := 0, takeCnt := 0, giveView := 0 },
        rdPhase := .idle,
        rdTimer := if s.rdPhase = .wait then 0 else s.rdTimer,
        log := s.log ++ waitEvents .rx s } := by
  by_cases h : s.rdPhase = .wait
  · simp [flowReset, endWait, h, waitEvents, answered, rdIdle, respond, record, State.upd]
  · have h2 : s.rdPhase = .idle := by cases hp : s.rdPhase <;> simp_all
    simp [flowReset, endWait, h2, waitEvents, State.upd]

theorem flowReset_tx (s : State) :
    flowReset .tx s =
      { s with
        tx := { s.tx with giveCnt := 0, takeCnt := 0, giveView := 0 },
        wrPhase := .idle,
        wrTimer := if s.wrPhase = .wait then 0 else s.wrTimer,
        wrH := if s.wrPhase = .wait then NULL else s.wrH,
        wrSz := if s.wrPhase = .wait then 0 else s.wrSz,
        log := s.log ++ waitEvents .tx s } := by
  by_cases h : s.wrPhase = .wait
  · simp [flowReset, endWait, h, waitEvents, answered, wrIdle, respond, record, State.upd]
  · have h2 : s.wrPhase = .idle := by cases hp : s.wrPhase <;> simp_all
    simp [flowReset, endWait, h2, waitEvents, State.upd]

theorem abortWrite_eq (s : State) :
    abortWrite s =
      { s with
        wrPhase := .idle,
        wrTimer := if s.wrPhase = .wait then 0 else s.wrTimer,
        wrH := if s.wrPhase = .wait then NULL else s.wrH,
        wrSz := if s.wrPhase = .wait then 0 else s.wrSz,
        log := s.log ++ if s.wrPhase = .wait then
          [.resp { ch := .wr, code := .invalidState, blk := NULL, size := 0, sw := 0 }] else [] } := by
  by_cases h : s.wrPhase = .wait
  · simp [abortWrite, h, wrIdle, respond, record]
  · have h2 : s.wrPhase = .idle := by cases hp : s.wrPhase <;> simp_all
    rw [abortWrite, if_neg h]
    simp only [h, if_false, List.append_nil]
    rw [← h2]

/-! ### Arm, Disable, FaultOne -/

theorem arm_eq (d : Dir) (h : Handle) (s : State) :
    arm d h s =
      { s.upd d (fun t => { t with active := { h := h, sz := t.cfg.blockSize }, armed := true }) with
        overrun := if d = .rx then false else s.overrun,
        underrun := if d = .tx then false else s.underrun,
        lastBlockFlag := if d = .tx then false else s.lastBlockFlag,
        log := s.log ++ (armTrace d h (s.stream d).cfg).map .call } := by
  cases d <;>
    simp [arm, armCalls, armTrace, emit, record, setActive, setArmed, State.upd, State.stream,
      clearLoss, clearLast]

theorem freeActive_eq (d : Dir) (s : State) :
    freeActive d s =
      { s with
        log := s.log ++ (if (s.stream d).active.h = NULL ∨ (s.stream d).active.h = s.par.filler
          then [] else [Call.poolFree d (s.stream d).active.h]).map .call } := by
  unfold freeActive
  by_cases h : (s.stream d).active.h = NULL ∨ (s.stream d).active.h = s.par.filler
  · rw [if_neg (by tauto)]
    simp [h]
  · rw [if_pos (by tauto)]
    simp [h, emit, record]

theorem periphOff_eq (d : Dir) (s : State) :
    periphOff d s =
      { s with
        periphEnabled := (s.stream d.other).armed && s.periphEnabled,
        log := s.log ++ (if (s.stream d.other).armed = false then
          [Call.periphDisable] else []).map .call } := by
  unfold periphOff
  split <;> simp_all [emit, record]

theorem disable_eq (d : Dir) (s : State) :
    disable d s =
      { s.upd d (fun t => { t with active := Block.null, armed := false }) with
        periphEnabled := (s.stream d.other).armed && s.periphEnabled,
        lastBlockFlag := if d = .tx then false else s.lastBlockFlag,
        log := s.log ++ (disableTrace d s).map .call } := by
  unfold disable
  simp only [freeActive_eq, periphOff_eq]
  cases d <;>
    simp [disarmCalls, emit, record, setActive, setArmed, State.upd, State.stream, clearLast,
      disableTrace, disarmTrace] <;> rfl

theorem faultOne_eq (d : Dir) (c : FaultCause) (s : State) :
    faultOne d c s =
      { s.upd d (fun t => { t with
          state := .error, faultCause := c, active := Block.null, armed := false }) with
        periphEnabled := (s.stream d.other).armed && s.periphEnabled,
        lastBlockFlag := if d = .tx then false else s.lastBlockFlag,
        log := s.log ++ (disableTrace d s).map .call } := by
  rw [faultOne, disable_eq]
  cases d <;> simp [setCause, setState, State.upd, disableTrace, disarmTrace, State.stream] <;> rfl

/-! ### DropQueue with FlowReset, StopStream, PREPARE -/

/-- What the two procedures that every queue drop runs do together (R143, R152). -/
def dropped (d : Dir) (s : State) : State := flowReset d (dropQueue d s)

theorem dropped_rx {s : State} (h : StreamBounds .rx s) :
    dropped .rx s =
      { s with
        rx := { s.rx with tail := s.rx.head, giveCnt := 0, takeCnt := 0, giveView := 0 },
        rdPhase := .idle,
        rdTimer := if s.rdPhase = .wait then 0 else s.rdTimer,
        log := s.log ++ (freesOf .rx (queued .rx s) ++ waitEvents .rx s) } := by
  rw [dropped, dropQueue_eq h, flowReset_rx]
  cases hp : s.rdPhase <;> simp [State.upd, waitEvents, hp]

theorem dropped_tx {s : State} (h : StreamBounds .tx s) :
    dropped .tx s =
      { s with
        tx := { s.tx with tail := s.tx.head, giveCnt := 0, takeCnt := 0, giveView := 0 },
        wrPhase := .idle,
        wrTimer := if s.wrPhase = .wait then 0 else s.wrTimer,
        wrH := if s.wrPhase = .wait then NULL else s.wrH,
        wrSz := if s.wrPhase = .wait then 0 else s.wrSz,
        log := s.log ++ (freesOf .tx (queued .tx s) ++ waitEvents .tx s) } := by
  rw [dropped, dropQueue_eq h, flowReset_tx]
  cases hp : s.wrPhase <;> simp [State.upd, waitEvents, hp]

theorem disable_bounds {d : Dir} {s : State} (h : StreamBounds d s) :
    StreamBounds d (disable d s) := by
  have hp : (disable d s).par = s.par := by simp [disable_eq]
  have hm := flowMod_congr (d := d) hp
  have hq := qcap_congr (d := d) hp
  have hs : (disable d s).stream d = { s.stream d with active := Block.null, armed := false } := by
    rw [disable_eq]
    cases d <;> rfl
  constructor <;> simp only [hm, hq, hs]
  exacts [h.head_le, h.tail_le, h.give_lt, h.take_lt, h.view_lt, h.slots_wf, h.slots_le]

theorem disable_queued (d : Dir) (s : State) : queued d (disable d s) = queued d s := by
  refine queued_eq_of ?_ ?_ ?_ ?_ <;> rw [disable_eq] <;> cases d <;> rfl

/-- All that `StopStream(RX)` does (R173). -/
theorem stopStream_rx {s : State} (h : StreamBounds .rx s) :
    stopStream .rx s =
      { s with
        rx := { s.rx with
          state := .ready, active := Block.null, armed := false, faultCause := .none,
          tail := s.rx.head, giveCnt := 0, takeCnt := 0, giveView := 0 },
        periphEnabled := s.tx.armed && s.periphEnabled,
        rdPhase := .idle,
        rdTimer := if s.rdPhase = .wait then 0 else s.rdTimer,
        log := s.log ++ ((disableTrace .rx s).map .call ++
          (freesOf .rx (queued .rx s) ++ waitEvents .rx s)) } := by
  have h1 := dropped_rx (disable_bounds h)
  rw [dropped, disable_queued] at h1
  rw [stopStream, h1, disable_eq]
  cases hp : s.rdPhase <;> simp [setCause, setState, State.upd, waitEvents, State.stream, hp]

/-- All that `StopStream(TX)` does (R173). -/
theorem stopStream_tx {s : State} (h : StreamBounds .tx s) :
    stopStream .tx s =
      { s with
        tx := { s.tx with
          state := .ready, active := Block.null, armed := false, faultCause := .none,
          tail := s.tx.head, giveCnt := 0, takeCnt := 0, giveView := 0 },
        lastBlockFlag := false,
        periphEnabled := s.rx.armed && s.periphEnabled,
        wrPhase := .idle,
        wrTimer := if s.wrPhase = .wait then 0 else s.wrTimer,
        wrH := if s.wrPhase = .wait then NULL else s.wrH,
        wrSz := if s.wrPhase = .wait then 0 else s.wrSz,
        log := s.log ++ ((disableTrace .tx s).map .call ++
          (freesOf .tx (queued .tx s) ++ waitEvents .tx s)) } := by
  have h1 := dropped_tx (disable_bounds h)
  rw [dropped, disable_queued] at h1
  rw [stopStream, h1, disable_eq]
  cases hp : s.wrPhase <;> simp [setCause, setState, State.upd, waitEvents, State.stream, hp]

/-- All that PREPARE does to RX (R179). -/
theorem prepareOne_rx {s : State} (h : StreamBounds .rx s) :
    prepareOne .rx s =
      { s with
        rx := { s.rx with
          state := .ready, faultCause := .none, tail := s.rx.head, giveCnt := 0, takeCnt := 0,
          giveView := 0 },
        overrun := false,
        rdPhase := .idle,
        rdTimer := if s.rdPhase = .wait then 0 else s.rdTimer,
        log := s.log ++ (freesOf .rx (queued .rx s) ++ waitEvents .rx s) } := by
  have h1 := dropped_rx h
  rw [dropped] at h1
  rw [prepareOne, h1]
  simp [setCause, setState, clearLoss, State.upd]

/-- All that PREPARE does to TX (R179). -/
theorem prepareOne_tx {s : State} (h : StreamBounds .tx s) :
    prepareOne .tx s =
      { s with
        tx := { s.tx with
          state := .ready, faultCause := .none, tail := s.tx.head, giveCnt := 0, takeCnt := 0,
          giveView := 0 },
        underrun := false,
        wrPhase := .idle,
        wrTimer := if s.wrPhase = .wait then 0 else s.wrTimer,
        wrH := if s.wrPhase = .wait then NULL else s.wrH,
        wrSz := if s.wrPhase = .wait then 0 else s.wrSz,
        log := s.log ++ (freesOf .tx (queued .tx s) ++ waitEvents .tx s) } := by
  have h1 := dropped_tx h
  rw [dropped] at h1
  rw [prepareOne, h1]
  simp [setCause, setState, clearLoss, State.upd]

end Sys2Proof.Machine
end

