-- ==== Sys2Proof/Laws/Inv.lean ====
section
/-! SUPPORT. What a change of the state has to leave alone to keep the invariants of
Sys2Proof/Safety.lean: one lemma for each kind of change. -/

namespace Sys2Proof.Machine

/-! ### What each side reads -/

/-- The RX side reads the parameters, the RX stream and the RD channel. -/
theorem rxInv_congr {s t : State} (hp : t.par = s.par) (hs : t.rx = s.rx)
    (h1 : t.rdPhase = s.rdPhase) (h2 : t.rdTimer = s.rdTimer) (h : RxInv s) : RxInv t := by
  have hs' : t.stream .rx = s.stream .rx := hs
  constructor
  · exact streamInv_congr hp hs' h.stream
  · rw [flowTrue_congr hp hs', occ_congr hp hs']
    exact h.flow
  · rw [hs]
    exact h.not_stopping
  · rw [hs, hp]
    exact h.active
  · rw [h1, h2]
    exact h.idle
  · rw [h1, hs]
    exact h.wait

/-- The TX side reads the parameters, the TX stream, `last_block_flag` and the WR channel. -/
theorem txInv_congr {s t : State} (hp : t.par = s.par) (hs : t.tx = s.tx)
    (hl : t.lastBlockFlag = s.lastBlockFlag) (h1 : t.wrPhase = s.wrPhase)
    (h2 : t.wrTimer = s.wrTimer) (h3 : t.wrH = s.wrH) (h4 : t.wrSz = s.wrSz) (h : TxInv s) :
    TxInv t := by
  have hs' : t.stream .tx = s.stream .tx := hs
  constructor
  · exact streamInv_congr hp hs' h.stream
  · rw [flowTrue_congr hp hs', occ_congr hp hs', qcap_congr hp]
    exact h.flow
  · rw [hl, hs]
    exact h.last
  · rw [hl, hs, occ_congr hp hs']
    exact h.last_empty
  · rw [h1, h2, h3, h4]
    exact h.idle
  · rw [h1, h3, hs]
    intro hw
    have := h.wait hw
    simpa only [PoolHandle, hp] using this

/-! ### A stream whose queue registers did not change -/

/-- The slots, indices and counters of a stream are as before. -/
structure QueueSame (t s : Stream) : Prop where
  slots : t.slots = s.slots
  head : t.head = s.head
  tail : t.tail = s.tail
  give : t.giveCnt = s.giveCnt
  take : t.takeCnt = s.takeCnt
  view : t.giveView = s.giveView

section same
variable {d : Dir} {s t : State} (hp : t.par = s.par) (hq : QueueSame (t.stream d) (s.stream d))
include hp hq

theorem same_occ : occ d t = occ d s := by
  simp [occ, hq.head, hq.tail, qcap_congr hp]

theorem same_flowTrue : flowTrue d t = flowTrue d s := by
  simp [flowTrue, hq.give, hq.take, flowMod_congr hp, initFlow_congr hp]

theorem same_flowView : flowView d t = flowView d s := by
  simp [flowView, hq.view, hq.take, flowMod_congr hp, initFlow_congr hp]

theorem same_queued : queued d t = queued d s := queued_eq_of hp hq.slots hq.head hq.tail

theorem same_bounds (h : StreamBounds d s) : StreamBounds d t := by
  constructor <;>
    simp only [flowMod_congr hp, qcap_congr hp, hq.head, hq.tail, hq.give, hq.take, hq.view, hq.slots]
  exacts [h.head_le, h.tail_le, h.give_lt, h.take_lt, h.view_lt, h.slots_wf, h.slots_le]

/-- What is left to show of a stream whose queue registers did not change. -/
theorem same_streamInv (h : StreamInv d s)
    (h1 : (t.stream d).armed = true ↔
      (t.stream d).state = .running ∨ (t.stream d).state = .stopping)
    (h2 : (t.stream d).active.h ≠ NULL ↔ (t.stream d).armed = true)
    (h3 : (t.stream d).armed = false → (t.stream d).active = Block.null)
    (hf : (t.stream d).active.h.fits s.par.blkW)
    (h4 : (t.stream d).state = .notReady → occ d s = 0 ∧ (t.stream d).armed = false ∧
      (s.stream d).giveCnt = 0 ∧ (s.stream d).takeCnt = 0 ∧ (s.stream d).giveView = 0) :
    StreamInv d t := by
  refine ⟨same_bounds hp hq h.bounds, h1, h2, h3, by rwa [hp], ?_, ?_, ?_, ?_⟩
  · rw [same_flowTrue hp hq, same_flowView hp hq]
    exact h.view_le
  · rw [same_flowTrue hp hq, qcap_congr hp]
    exact h.flow_le
  · rw [same_occ hp hq, hq.give, hq.take, hq.view]
    exact h4
  · rw [same_queued hp hq]
    intro b hb
    have := h.queued_pool b hb
    simpa only [PoolHandle, hp] using this

end same

/-! ### A stream that was emptied -/

theorem flowTrue_of_reset {d : Dir} {t : State} (h1 : (t.stream d).giveCnt = 0)
    (h2 : (t.stream d).takeCnt = 0) : flowTrue d t = initFlow d t := by
  have := flowMod_gt d t
  refine subMod_unique ?_ ?_
  · cases d <;> simp only [initFlow] <;> omega
  · rw [h1, h2]

theorem flowView_of_reset {d : Dir} {t : State} (h1 : (t.stream d).giveView = 0)
    (h2 : (t.stream d).takeCnt = 0) : flowView d t = initFlow d t := by
  have := flowMod_gt d t
  refine subMod_unique ?_ ?_
  · cases d <;> simp only [initFlow] <;> omega
  · rw [h1, h2]

/-- The queue was dropped, the counters are back at 0, and the stream is off. -/
structure Emptied (t s : Stream) : Prop where
  slots : t.slots = s.slots
  head : t.head = s.head
  tail : t.tail = s.head
  give : t.giveCnt = 0
  take : t.takeCnt = 0
  view : t.giveView = 0
  armed : t.armed = false
  active : t.active = Block.null
  state : t.state = .ready ∨ t.state = .notReady

section emptied
variable {d : Dir} {s t : State} (hp : t.par = s.par) (hq : Emptied (t.stream d) (s.stream d))
  (hb : StreamBounds d s)
include hp hq hb

theorem emptied_bounds : StreamBounds d t := by
  have := flowMod_pos d s
  constructor <;>
    simp only [flowMod_congr hp, qcap_congr hp, hq.head, hq.tail, hq.give, hq.take, hq.view, hq.slots]
  exacts [hb.head_le, hb.head_le, this, this, this, hb.slots_wf, hb.slots_le]

theorem emptied_occ : occ d t = 0 := by
  rw [occ_eq_zero_iff (emptied_bounds hp hq hb), hq.head, hq.tail]

theorem emptied_streamInv : StreamInv d t := by
  have ho := emptied_occ hp hq hb
  have ht := flowTrue_of_reset hq.give hq.take
  refine ⟨emptied_bounds hp hq hb, ?_, ?_, fun _ => hq.active, ?_, ?_, ?_, ?_, ?_⟩
  · rcases hq.state with h | h <;> simp [h, hq.armed]
  · simp [hq.active, hq.armed]
  · rw [hq.active]
    exact Nat.two_pow_pos _
  · rw [ht, flowView_of_reset hq.view hq.take]
  · rw [ht]
    cases d <;> simp [initFlow]
  · exact fun _ => ⟨ho, hq.armed, hq.give, hq.take, hq.view⟩
  · simp [(queued_eq_nil_iff d t).2 ho]

end emptied

/-- RX after its queue was dropped. -/
theorem rxInv_emptied {s t : State} (hp : t.par = s.par) (hq : Emptied t.rx s.rx)
    (hb : StreamBounds .rx s) (hk : s.par.ok) (h1 : t.rdPhase = .idle) (h2 : t.rdTimer = 0#32) :
    RxInv t := by
  have hq' : Emptied (t.stream .rx) (s.stream .rx) := hq
  refine ⟨emptied_streamInv hp hq' hb, ?_, ?_, ?_, fun _ => h2, fun h => ?_⟩
  · rw [flowTrue_of_reset hq'.give hq'.take, emptied_occ hp hq' hb]
    rfl
  · rcases hq.state with h | h <;> simp [h]
  · rw [hq.active, hp]
    exact hk.2.2.1.symm
  · simp [h1] at h

/-- TX after its queue was dropped. -/
theorem txInv_emptied {s t : State} (hp : t.par = s.par) (hq : Emptied t.tx s.tx)
    (hb : StreamBounds .tx s) (hl : t.lastBlockFlag = false) (h1 : t.wrPhase = .idle)
    (h2 : t.wrTimer = 0#32) (h3 : t.wrH = NULL) (h4 : t.wrSz = 0#32) : TxInv t := by
  have hq' : Emptied (t.stream .tx) (s.stream .tx) := hq
  refine ⟨emptied_streamInv hp hq' hb, ?_, ?_, ?_, fun _ => ⟨h2, h3, h4⟩, fun h => ?_⟩
  · rw [flowTrue_of_reset hq'.give hq'.take, emptied_occ hp hq' hb]
    rfl
  · simp [hl]
  · rcases hq.state with h | h <;> simp [h]
  · simp [h1] at h

/-! ### Changes of the history and of the environment's own data -/

/-- Nothing but the history, the pending moves, the pool answers, the draw counter and the
application's own Blocks changed. -/
def EnvChange (t s : State) : Prop :=
  t = { s with
    log := t.log, pending := t.pending, rxPool := t.rxPool, txPool := t.txPool, draws := t.draws,
    app := t.app }

theorem EnvChange.eq {t s : State} (h : EnvChange t s) : t = { s with
    log := t.log, pending := t.pending, rxPool := t.rxPool, txPool := t.txPool, draws := t.draws,
    app := t.app } := h

theorem EnvChange.refl (s : State) : EnvChange s s := rfl

theorem EnvChange.record (e : Event) (s : State) : EnvChange (record e s) s := rfl

theorem EnvChange.par {t s : State} (h : EnvChange t s) : t.par = s.par := by rw [h.eq]

theorem EnvChange.trans {u t s : State} (h : EnvChange u t) (g : EnvChange t s) :
    EnvChange u s := by
  unfold EnvChange
  conv_lhs => rw [h.eq, g.eq]

theorem rxInv_env {t s : State} (h : EnvChange t s) (i : RxInv s) : RxInv t := by
  refine rxInv_congr h.par ?_ ?_ ?_ i <;> rw [h.eq]

theorem txInv_env {t s : State} (h : EnvChange t s) (i : TxInv s) : TxInv t := by
  refine txInv_congr h.par ?_ ?_ ?_ ?_ ?_ ?_ i <;> rw [h.eq]

theorem inv_env {t s : State} (h : EnvChange t s) (i : Inv s) : Inv t := by
  refine ⟨?_, rxInv_env h i.rx, txInv_env h i.tx, ?_, ?_⟩
  · rw [h.par]
    exact i.par
  · rw [h.eq]
    exact i.periph
  · rw [h.eq]
    exact i.duplex

/-- A pool's answer changes the environment's data alone, and keeps R54 item 1. -/
theorem ask_env {d : Dir} {held : List Handle} {s t : State} {a : PoolAnswer}
    (h : ask d held s = (a, t)) : EnvChange t s ∧ legalAnswer s held a = true := by
  have hl := legalAnswer_next d held s
  cases h
  refine ⟨?_, hl⟩
  unfold EnvChange spendAnswer
  cases d <;> cases poolList _ s <;> simp [emit, Machine.record, setPoolList]

end Sys2Proof.Machine
end

