-- ==== Sys2Proof/Laws/Log.lean ====
section
/-! SUPPORT. No operation rewrites the event history: each appends to it (20_memory.md R94). -/

namespace Sys2Proof.Machine

/-- The history of `t` extends that of `s`. -/
abbrev Grows (s t : State) : Prop := s.log <+: t.log

theorem Grows.refl (s : State) : Grows s s := List.prefix_refl _

theorem Grows.of_eq {s t : State} (h : t.log = s.log) : Grows s t := by
  rw [Grows, h]

theorem Grows.foldl {α : Type} (f : State → α → State) (h : ∀ s a, Grows s (f s a)) (l : List α)
    (s : State) : Grows s (l.foldl f s) := by
  induction l generalizing s with
  | nil => exact Grows.refl s
  | cons a l ih => exact (h s a).trans (ih _)

/-! ### The procedures -/

theorem grows_record (e : Event) (s : State) : Grows s (record e s) := List.prefix_append _ _

theorem grows_emit (c : Call) (s : State) : Grows s (emit c s) := grows_record _ s

theorem grows_respond (ch : Channel) (k : Code) (s : State) : Grows s (respond ch k s) :=
  grows_record _ s

theorem grows_upd (d : Dir) (f : Stream → Stream) (s : State) : Grows s (s.upd d f) :=
  Grows.of_eq (upd_log s d f)

theorem grows_setState (d : Dir) (q : StreamState) (s : State) : Grows s (setState d q s) :=
  grows_upd d _ s

theorem grows_setActive (d : Dir) (b : Block) (s : State) : Grows s (setActive d b s) :=
  grows_upd d _ s

theorem grows_setArmed (d : Dir) (v : Bool) (s : State) : Grows s (setArmed d v s) :=
  grows_upd d _ s

theorem grows_setCause (d : Dir) (c : FaultCause) (s : State) : Grows s (setCause d c s) :=
  grows_upd d _ s

theorem grows_setCfg (d : Dir) (c : Cfg) (s : State) : Grows s (setCfg d c s) := grows_upd d _ s

theorem grows_clearLoss (d : Dir) (s : State) : Grows s (clearLoss d s) :=
  Grows.of_eq (clearLoss_log d s)

theorem grows_clearLast (d : Dir) (s : State) : Grows s (clearLast d s) :=
  Grows.of_eq (clearLast_log d s)

theorem grows_push {d : Dir} {b : Block} {s t : State} (h : push d b s = some t) : Grows s t := by
  unfold push at h
  split at h
  · cases h
  · cases h
    exact (grows_upd d _ s).trans (grows_upd d _ _)

theorem grows_pop {d : Dir} {b : Block} {s t : State} (h : pop d s = some (b, t)) : Grows s t := by
  unfold pop at h
  split at h
  · cases h
  · cases h
    exact grows_upd d _ s

theorem grows_dropLoop (d : Dir) (n : Nat) (s : State) : Grows s (dropLoop d n s) := by
  induction n generalizing s with
  | zero => exact Grows.refl s
  | succ n ih =>
    unfold dropLoop
    split
    · exact Grows.refl s
    · rename_i h
      exact ((grows_pop h).trans (grows_emit _ _)).trans (ih _)

theorem grows_dropQueue (d : Dir) (s : State) : Grows s (dropQueue d s) := grows_dropLoop d _ s

theorem grows_give (d : Dir) (s : State) : Grows s (give d s) := grows_upd d _ s

theorem grows_take (d : Dir) (s : State) : Grows s (take d s) := grows_upd d _ s

theorem grows_endWait (d : Dir) (s : State) : Grows s (endWait d s) := by
  cases d <;> unfold endWait <;> dsimp only <;> split
  · exact grows_respond .rd .timeout s
  · exact Grows.refl s
  · exact grows_respond .wr .timeout s
  · exact Grows.refl s

theorem grows_flowReset (d : Dir) (s : State) : Grows s (flowReset d s) :=
  (grows_upd d _ s).trans (grows_endWait d _)

theorem grows_abortWrite (s : State) : Grows s (abortWrite s) := by
  unfold abortWrite
  split
  · exact grows_respond .wr .invalidState s
  · exact Grows.refl s

theorem grows_arm (d : Dir) (h : Handle) (s : State) : Grows s (arm d h s) := by
  have hc : ∀ t, Grows t (armCalls d h (s.stream d).cfg t) := by
    intro t
    cases d
    · exact grows_emit _ t
    · exact (grows_emit _ t).trans (grows_emit _ _)
  exact (((((grows_setActive d _ s).trans (hc _)).trans (grows_emit _ _)).trans
    (grows_setArmed d true _)).trans ((grows_emit _ _).trans (grows_emit _ _))).trans
    ((grows_clearLoss d _).trans (grows_clearLast d _))

theorem grows_disarmCalls (d : Dir) (s : State) : Grows s (disarmCalls d s) :=
  ((grows_emit _ s).trans (grows_emit _ _)).trans (grows_emit _ _)

theorem grows_freeActive (d : Dir) (s : State) : Grows s (freeActive d s) := by
  unfold freeActive
  split
  · exact grows_emit _ s
  · exact Grows.refl s

theorem grows_periphOff (d : Dir) (s : State) : Grows s (periphOff d s) := by
  unfold periphOff
  split
  · exact grows_emit _ s
  · exact Grows.refl s

theorem grows_disable (d : Dir) (s : State) : Grows s (disable d s) :=
  ((((grows_disarmCalls d s).trans (grows_freeActive d _)).trans (grows_setActive d _ _)).trans
    (grows_periphOff d _)).trans ((grows_setArmed d false _).trans (grows_clearLast d _))

theorem grows_stopStream (d : Dir) (s : State) : Grows s (stopStream d s) :=
  (((grows_disable d s).trans (grows_dropQueue d _)).trans (grows_flowReset d _)).trans
    ((grows_setCause d _ _).trans (grows_setState d _ _))

theorem grows_prepareOne (d : Dir) (s : State) : Grows s (prepareOne d s) :=
  (((grows_dropQueue d s).trans (grows_flowReset d _)).trans (grows_setCause d _ _)).trans
    ((grows_clearLoss d _).trans (grows_setState d _ _))

theorem grows_ask (d : Dir) (held : List Handle) (s : State) : Grows s (ask d held s).2 := by
  have h : Grows s (spendAnswer d s) := by
    unfold spendAnswer
    split
    · exact Grows.of_eq (setPoolList_log d _ s)
    · exact Grows.refl s
  exact (h.trans (grows_emit _ _)).trans (grows_record _ _)

theorem grows_allocAll (T : List Dir) (got : List (Dir × Handle)) (s : State) :
    Grows s (allocAll T got s).2 := by
  induction T generalizing got s with
  | nil => exact Grows.refl s
  | cons d T ih =>
    have h := grows_ask d (got.map fun p => p.2) s
    unfold allocAll
    split
    · rename_i s1 he
      rw [he] at h
      exact h.trans (Grows.foldl _ (fun t p => grows_emit _ t) got s1)
    · rename_i k s1 he
      rw [he] at h
      exact h.trans (ih _ s1)

theorem grows_periphOn (s : State) : Grows s (periphOn s) := by
  unfold periphOn
  split
  · exact grows_emit _ s
  · exact Grows.refl s

theorem grows_faultOne (d : Dir) (c : FaultCause) (s : State) : Grows s (faultOne d c s) :=
  ((grows_setState d _ s).trans (grows_setCause d _ _)).trans (grows_disable d _)

theorem grows_couple (d : Dir) (s : State) : Grows s (couple d s) := by
  unfold couple
  split
  · exact grows_faultOne d _ s
  · exact Grows.refl s

theorem grows_fault (d : Dir) (c : FaultCause) (s : State) : Grows s (fault d c s) :=
  (grows_faultOne d c s).trans (grows_couple _ _)

/-! ### The meanings -/

theorem grows_drainOne (d : Dir) (s : State) : Grows s (drainOne d s) := by
  cases d
  · exact grows_stopStream .rx s
  · exact (grows_abortWrite s).trans (grows_setState .tx .stopping _)

theorem grows_configureOne (d : Dir) (c : Cfg) (s : State) : Grows s (configureOne d c s) := by
  have h : ∀ t, Grows t (storeCfg d c t) := by
    intro t
    unfold storeCfg
    split
    · exact (grows_setCfg d _ t).trans (grows_setState d _ _)
    · exact (grows_setCfg d _ t).trans (grows_setState d _ _)
  exact ((((grows_dropQueue d s).trans (grows_flowReset d _)).trans (grows_setCause d _ _)).trans
    (grows_clearLoss d _)).trans (h _)

theorem grows_teardownOne (d : Dir) (s : State) : Grows s (teardownOne d s) := by
  unfold teardownOne
  dsimp only
  split
  · exact (((grows_disable d s).trans (grows_dropQueue d _)).trans (grows_flowReset d _)).trans
      (((grows_setCause d _ _).trans (grows_setCfg d _ _)).trans (grows_setState d _ _))
  · exact ((grows_setCause d _ s).trans (grows_setCfg d _ _)).trans (grows_setState d _ _)

theorem grows_rxDeliver (done : Block) {k : State → State} (hk : ∀ t, Grows t (k t)) (s : State) :
    Grows s (rxDeliver done k s) := by
  unfold rxDeliver
  split
  · rename_i h
    exact ((grows_push h).trans (grows_give .rx _)).trans (hk _)
  · dsimp only
    split
    · exact (grows_emit (.poolFree .rx done.h) s).trans
        (hk { emit (.poolFree .rx done.h) s with overrun := true })
    · exact (grows_emit _ s).trans (grows_fault .rx _ _)

theorem grows_rxDone (s : State) : Grows s (rxDoneRunning s) := by
  have h := grows_ask .rx [] s
  unfold rxDoneRunning
  split
  · rename_i s1 he
    rw [he] at h
    exact h.trans (grows_fault .rx _ s1)
  · rename_i nb s1 he
    rw [he] at h
    exact h.trans (((grows_setActive .rx _ s1).trans (grows_emit _ _)).trans
      (grows_rxDeliver _ (fun t => Grows.refl t) _))

theorem grows_rxDoneStopping (s : State) : Grows s (rxDoneStopping s) :=
  (grows_setActive .rx _ s).trans (grows_rxDeliver _
    (fun t => (grows_setState .rx .ready t).trans (grows_disable .rx _)) _)

theorem grows_txSend (b : Block) (s : State) : Grows s (txSend b s) :=
  ((grows_emit _ s).trans (grows_emit _ _)).trans (grows_setActive .tx b _)

theorem grows_drainEnd (s : State) : Grows s (drainEnd s) :=
  (grows_setState .tx .ready s).trans (grows_disable .tx _)

theorem grows_releaseSent (b : Block) (s : State) : Grows s (releaseSent b s) := by
  unfold releaseSent copyFiller
  split
  · split
    · exact (grows_emit _ s).trans (grows_emit (.poolFree .tx b.h) _)
    · exact grows_emit _ s
  · exact Grows.refl s

theorem grows_txEmpty (s : State) : Grows s (txEmpty s) := by
  unfold txEmpty
  split
  · exact grows_drainEnd s
  · split
    · exact grows_txSend _ { s with underrun := true }
    · exact grows_fault .tx _ s

theorem grows_txNext (b : Block) (s : State) : Grows s (txNext b s) := by
  have h : ∀ t, Grows t (markLast t) := by
    intro t
    unfold markLast
    split <;> exact Grows.refl t
  exact ((grows_give .tx { s with underrun := false }).trans (h _)).trans (grows_txSend b _)

theorem grows_txDoneOk (s : State) : Grows s (txDoneOk s) := by
  have h := (grows_releaseSent s.tx.active s).trans (grows_setActive .tx Block.null _)
  unfold txDoneOk
  dsimp only
  split
  · exact h.trans (grows_drainEnd _)
  · split
    · exact h.trans (grows_txEmpty _)
    · rename_i hp
      exact (h.trans (grows_pop hp)).trans (grows_txNext _ _)

theorem grows_periphOne (d : Dir) (v : Bool) (s : State) : Grows s (periphOne d v s) := by
  unfold periphOne
  split
  · exact grows_faultOne d _ s
  · exact Grows.refl s

/-- What an outcome says of the history: a next state's extends `s`'s. -/
def Appends (s : State) (o : Host.Outcome State Fault Refusal) : Prop :=
  ∀ t, o = .next t → Grows s t

theorem Appends.next {s t : State} (h : Grows s t) : Appends s (.next t) := by
  intro u hu
  cases hu
  exact h

theorem Appends.ite {s : State} {p : Prop} [Decidable p] {a b : Host.Outcome State Fault Refusal}
    (ha : Appends s a) (hb : Appends s b) : Appends s (if p then a else b) := by
  split <;> assumption

theorem appends_respond (ch : Channel) (k : Code) (s : State) :
    Appends s (.next (respond ch k s)) := .next (grows_respond ch k s)

theorem appends_fold (f : State → Dir → State) (h : ∀ s d, Grows s (f s d)) (T : List Dir)
    (s : State) : Appends s (.next (respond .cmd .ok (T.foldl f s))) :=
  .next ((Grows.foldl f h T s).trans (grows_respond _ _ _))

theorem appends_start (dir : DirSel) (s : State) : Appends s (execTriggerStart dir s) := by
  refine .ite ?_ (appends_respond _ _ s)
  have h := grows_allocAll (targets dir s) [] s
  split
  · rename_i s1 he
    rw [he] at h
    exact .next (h.trans (grows_respond _ _ _))
  · rename_i got s1 he
    rw [he] at h
    exact .next (((h.trans (Grows.foldl _ (fun u p => grows_arm p.1 p.2 u) got s1)).trans
      (grows_periphOn _)).trans
      ((Grows.foldl _ (fun u d => grows_setState d .running u) _ _).trans (grows_respond _ _ _)))

theorem appends_periphFault (flags : BitVec 3) (s : State) :
    Appends s (execPeriphFault flags s) := by
  refine .ite (.next (Grows.refl s)) (.ite (.next (grows_emit _ s)) (.next ?_))
  exact (((grows_emit _ s).trans (grows_periphOne .rx _ _)).trans
    (grows_periphOne .tx _ _)).trans ((grows_couple .rx _).trans (grows_couple .tx _))

/-- Every operation appends to the history (R94). -/
theorem exec_appends (i : Instr) (s : State) : Appends s (exec i s) := by
  cases i with
  | configure dir w0 w1 w2 w3 w4 =>
    exact .ite (.ite (appends_respond _ _ s)
      (appends_fold _ (fun u d => grows_configureOne d _ u) _ s)) (appends_respond _ _ s)
  | triggerStart dir => exact appends_start dir s
  | triggerStop dir =>
    exact .ite (appends_fold _ (fun u d => grows_stopStream d u) _ s) (appends_respond _ _ s)
  | triggerDrain dir =>
    exact .ite (appends_fold _ (fun u d => grows_drainOne d u) _ s) (appends_respond _ _ s)
  | triggerDrop dir =>
    exact .ite (appends_fold _ (fun u d => grows_stopStream d u) _ s) (appends_respond _ _ s)
  | triggerPrepare dir =>
    exact .ite (appends_fold _ (fun u d => grows_prepareOne d u) _ s) (appends_respond _ _ s)
  | status dir => cases dir <;> exact .next (grows_record _ s)
  | read =>
    exact .ite (.ite (appends_respond _ _ s) (.next (Grows.refl s))) (.next (Grows.refl s))
  | write blk size =>
    exact .ite (.ite (appends_respond _ _ s) (.ite (appends_respond _ _ s) (.next (Grows.refl s))))
      (.next (Grows.refl s))
  | teardown =>
    exact .next (((grows_teardownOne .rx s).trans (grows_teardownOne .tx _)).trans
      (grows_respond .cmd .ok _))
  | rxDone status =>
    exact .ite (.next (Grows.refl s)) (.ite (.next (grows_fault _ _ s))
      (.ite (.next (grows_rxDoneStopping s)) (.next (grows_rxDone s))))
  | txDone status =>
    exact .ite (.next (Grows.refl s)) (.ite (.next (grows_fault _ _ s))
      (.next (grows_txDoneOk s)))
  | periphFault flags => exact appends_periphFault flags s

/-- What an operation added to the history. -/
theorem exec_log {i : Instr} {s t : State} (h : exec i s = .next t) :
    ∃ l, t.log = s.log ++ l := by
  obtain ⟨l, hl⟩ := exec_appends i s t h
  exact ⟨l, hl.symm⟩

end Sys2Proof.Machine
end

