-- ==== Sys2Proof/Laws/PerInstr.lean ====
section
/-! SUPPORT. Statements per operation. `TablePort`: the word of an operation goes to the operation's
port when it is taken from the opcode table's numbering (30_encoding.md R104: the legal words of the
two ports do not overlap). -/

namespace Sys2Proof.Laws.TablePort

/-- The statement for one operation. -/
def Statement (i : Instr) : Prop :=
  i.wellFormed = true → portOfTable (encode i) = i.port

theorem configure (dir : DirSel) (w0 w1 w2 w3 w4 : Word) :
    Statement (.configure dir w0 w1 w2 w3 w4) := by
  have h : ∀ e : DirSel, portOfTable (.ofWord (commandWord 1#4 e.code 0#3)) = .a := by
    intro e; cases e <;> decide
  exact fun _ => h dir

theorem triggerStart (dir : DirSel) : Statement (.triggerStart dir) := by
  intro _; cases dir <;> rfl

theorem triggerStop (dir : DirSel) : Statement (.triggerStop dir) := by
  intro _; cases dir <;> rfl

theorem triggerDrain (dir : DirSel) : Statement (.triggerDrain dir) := by
  intro _; cases dir <;> rfl

theorem triggerDrop (dir : DirSel) : Statement (.triggerDrop dir) := by
  intro _; cases dir <;> rfl

theorem triggerPrepare (dir : DirSel) : Statement (.triggerPrepare dir) := by
  intro _; cases dir <;> rfl

theorem status (dir : DirSel) : Statement (.status dir) := by
  intro h
  cases dir with
  | rx => rfl
  | tx => rfl
  | both => exact absurd h (by decide)

theorem read : Statement .read := fun _ => rfl

theorem write (blk : Handle) (size : Size) : Statement (.write blk size) := by
  have h : decodeEvent (encode (.write blk size)).cw = .error .badEvent := by
    change decodeEvent (commandWord 5#4 1#2 0#3) = _
    decide
  intro _
  rw [portOfTable, h]
  rfl

theorem teardown : Statement .teardown := fun _ => rfl

theorem rxDone (status : BitVec 8) : Statement (.rxDone status) := by
  have h : ∀ v : BitVec 8, portOfTable (encode (.rxDone v)) = .b := by decide +kernel
  exact fun _ => h status

theorem txDone (status : BitVec 8) : Statement (.txDone status) := by
  have h : ∀ v : BitVec 8, portOfTable (encode (.txDone v)) = .b := by decide +kernel
  exact fun _ => h status

theorem periphFault (flags : BitVec 3) : Statement (.periphFault flags) := by
  have h : ∀ v : BitVec 3, portOfTable (encode (.periphFault v)) = .b := by decide +kernel
  exact fun _ => h flags

end Sys2Proof.Laws.TablePort
end

