-- ==== Sys2Proof/Machine/Text.lean ====
section
/-! DEFINITION. The textual form of operations, internal steps, responses and pool answers
(30_encoding.md R118). Numbers are written in decimal; a handle, symbolic in the spec's examples, is
written as its number (log 22). No step reads any of it. -/

namespace Sys2Proof.Machine

/-- `<dir>`. -/
def dirSelText : DirSel → String
  | .rx => "RX"
  | .tx => "TX"
  | .both => "BOTH"

/-- `<dir>` of a SYNC. -/
def dirText : Dir → String
  | .rx => "RX"
  | .tx => "TX"

/-- A number. -/
def numText {w : Nat} (v : BitVec w) : String := toString v.toNat

/-- A handle. -/
def handleText (h : Handle) : String := toString h.val

/-- The operands of CONFIGURE. -/
def cfgText (c : Cfg) : String :=
  "freq=" ++ numText c.freq ++ ", ws=" ++ numText c.wordSize ++ ", ch=" ++ numText c.channelCount ++
  ", fmt=" ++ numText c.format ++ ", opt=" ++ numText c.options ++ ", bsz=" ++
  numText c.blockSize ++ ", bcnt=" ++ numText c.blockCount ++ ", to=" ++ numText c.timeout

/-- An operation. -/
def instrText : Instr → String
  | .configure dir w0 w1 w2 w3 w4 =>
    "CONFIGURE " ++ dirSelText dir ++ ", " ++ cfgText (cfgOfWords w0 w1 w2 w3 w4)
  | .triggerStart dir => "TRIGGER.START " ++ dirSelText dir
  | .triggerStop dir => "TRIGGER.STOP " ++ dirSelText dir
  | .triggerDrain dir => "TRIGGER.DRAIN " ++ dirSelText dir
  | .triggerDrop dir => "TRIGGER.DROP " ++ dirSelText dir
  | .triggerPrepare dir => "TRIGGER.PREPARE " ++ dirSelText dir
  | .status dir => "STATUS " ++ dirSelText dir
  | .read => "READ"
  | .write blk size => "WRITE " ++ handleText blk ++ ", " ++ numText size
  | .teardown => "TEARDOWN"
  | .rxDone status => "RX_DONE " ++ numText status
  | .txDone status => "TX_DONE " ++ numText status
  | .periphFault flags => "PERIPH_FAULT " ++ numText flags

/-- A move of the order. A word that is no operation, the reset input and the
application's dealings with the pools have no line of their own in R118: none. -/
def stimulusText : Stimulus → Option String
  | .command b =>
    match decodeCommand b with
    | .ok i => some (instrText i)
    | .error _ => none
  | .event ew =>
    match decodeEvent ew with
    | .ok i => some (instrText i)
    | .error _ => none
  | .rdGrant => some "RD_GRANT"
  | .rdTimeout => some "RD_TIMEOUT"
  | .wrGrant => some "WR_GRANT"
  | .wrTimeout => some "WR_TIMEOUT"
  | .tick => some "TICK"
  | .appAlloc _ => none
  | .appFree _ => none
  | .sync d _ => some ("SYNC " ++ dirText d)
  | .reset => none

/-- The name of a response code (R112). -/
def codeText : Code → String
  | .ok => "OK"
  | .invalidArgument => "INVALID_ARGUMENT"
  | .invalidState => "INVALID_STATE"
  | .resourceExhausted => "RESOURCE_EXHAUSTED"
  | .timeout => "TIMEOUT"
  | .hardwareFault => "HARDWARE_FAULT"
  | .queueEmpty => "QUEUE_EMPTY"

/-- A response. -/
def responseText (r : Response) : String :=
  if r.ch = .rd ∧ r.code = .ok then "-> OK(" ++ handleText r.blk ++ ", " ++ numText r.size ++ ")"
  else "-> " ++ codeText r.code

/-- An answer of `pool[d].alloc()` consumed by a step. -/
def answerText : PoolAnswer → String
  | .busy => "[alloc -> BUSY]"
  | .block h => "[alloc -> " ++ handleText h ++ "]"

end Sys2Proof.Machine
end

