-- ==== Sys2Proof/Tests/Slice0.lean ====
section
/-! SUPPORT. Tests of the model: the smoke test of WellFormed, the words of 95_test_vectors.md 2.1, at
most two vectors of its parts 2 and 3 for each operation, and the witnesses `witness_<statement>` that
the hypotheses of the statements can be met. Expected results are the vectors' own. -/

-- One theorem after another: the checks of many closed terms at once exhaust the check's memory limit.
set_option Elab.async false

namespace Sys2Proof.Tests

open Sys2Proof.Machine

/-! ### WellFormed -/

theorem test_wellFormed_status_both_refused : (Instr.status .both).wellFormed = false := by decide +kernel

theorem test_wellFormed_status_one_stream :
    (Instr.status .rx).wellFormed = true ∧ (Instr.status .tx).wellFormed = true := by decide +kernel

/-! ### Words written out from the encoding table (95_test_vectors.md 2.1; 30_encoding.md R104, R115) -/

/-- The handle a test names `b n`. -/
def hd (n : Nat) : Handle := { val := n }

/-- A command word without payload. -/
def cmdOf (w : Word) : Except DecodeError Instr := decode .a (.ofWord w)

theorem test_decode_configure :
    cmdOf 0x10000000#32 = .ok (.configure .rx 0 0 0 0 0) ∧
    cmdOf 0x14000000#32 = .ok (.configure .tx 0 0 0 0 0) ∧
    decode .a { cw := 0x18000000#32, p0 := 0xBB80#32, p1 := 0x210#32, p2 := 0x100#32, p3 := 4#32,
                p4 := 0x64#32, blk := NULL, size := 0 } =
      .ok (.configure .both 0xBB80#32 0x210#32 0x100#32 4#32 0x64#32) := by decide +kernel

theorem test_decode_triggerStart :
    cmdOf 0x20000000#32 = .ok (.triggerStart .rx) ∧
    cmdOf 0x24000000#32 = .ok (.triggerStart .tx) ∧
    cmdOf 0x28000000#32 = .ok (.triggerStart .both) := by decide +kernel

theorem test_decode_triggerStop :
    cmdOf 0x20000001#32 = .ok (.triggerStop .rx) ∧ cmdOf 0x24000001#32 = .ok (.triggerStop .tx) ∧
    cmdOf 0x28000001#32 = .ok (.triggerStop .both) := by decide +kernel

theorem test_decode_triggerDrain :
    cmdOf 0x20000002#32 = .ok (.triggerDrain .rx) ∧
    cmdOf 0x24000002#32 = .ok (.triggerDrain .tx) ∧
    cmdOf 0x28000002#32 = .ok (.triggerDrain .both) := by decide +kernel

theorem test_decode_triggerDrop :
    cmdOf 0x20000003#32 = .ok (.triggerDrop .rx) ∧ cmdOf 0x24000003#32 = .ok (.triggerDrop .tx) ∧
    cmdOf 0x28000003#32 = .ok (.triggerDrop .both) := by decide +kernel

theorem test_decode_triggerPrepare :
    cmdOf 0x20000004#32 = .ok (.triggerPrepare .rx) ∧
    cmdOf 0x24000004#32 = .ok (.triggerPrepare .tx) ∧
    cmdOf 0x28000004#32 = .ok (.triggerPrepare .both) := by decide +kernel

theorem test_decode_status :
    cmdOf 0x30000000#32 = .ok (.status .rx) ∧ cmdOf 0x34000000#32 = .ok (.status .tx) := by decide +kernel

theorem test_decode_read : cmdOf 0x40000000#32 = .ok .read := by decide +kernel

theorem test_decode_write :
    decode .a { Bundle.ofWord 0x54000000#32 with blk := hd 0xB1, size := 0x100#32 } =
      .ok (.write (hd 0xB1) 0x100#32) := by decide +kernel

theorem test_decode_teardown : cmdOf 0x68000000#32 = .ok .teardown := by decide +kernel

theorem test_decode_rxDone :
    decode .b (.ofWord 0x80000000#32) = .ok (.rxDone 0#8) ∧
    decode .b (.ofWord 0x800000FF#32) = .ok (.rxDone 255#8) := by decide +kernel

theorem test_decode_txDone :
    decode .b (.ofWord 0x90000000#32) = .ok (.txDone 0#8) ∧
    decode .b (.ofWord 0x900000A5#32) = .ok (.txDone 0xA5#8) := by decide +kernel

theorem test_decode_periphFault :
    decode .b (.ofWord 0xA0000000#32) = .ok (.periphFault 0#3) ∧
    decode .b (.ofWord 0xA0000006#32) = .ok (.periphFault 6#3) := by decide +kernel

/-- X1 to X10. -/
theorem test_decode_illegal_commands :
    cmdOf 0x00000000#32 = .error .badOp ∧ cmdOf 0x70000000#32 = .error .badOp ∧
    cmdOf 0x80000000#32 = .error .badOp ∧ cmdOf 0xF0000000#32 = .error .badOp ∧
    cmdOf 0x2C000000#32 = .error .badDir ∧
    cmdOf 0x20000005#32 = .error .badSub ∧ cmdOf 0x20000007#32 = .error .badSub ∧
    cmdOf 0x20000008#32 = .error .reservedBits ∧ cmdOf 0x22000000#32 = .error .reservedBits ∧
    cmdOf 0x10000001#32 = .error .badSub ∧ cmdOf 0x30000004#32 = .error .badSub ∧
    cmdOf 0x38000000#32 = .error .badDir ∧
    cmdOf 0x44000000#32 = .error .badDir ∧ cmdOf 0x48000000#32 = .error .badDir ∧
    cmdOf 0x50000000#32 = .error .badDir ∧ cmdOf 0x58000000#32 = .error .badDir ∧
    cmdOf 0x60000000#32 = .error .badDir ∧ cmdOf 0x64000000#32 = .error .badDir := by decide +kernel

/-- X11 to X13. -/
theorem test_decode_illegal_events :
    decode .b (.ofWord 0xB0000000#32) = .error .badEvent ∧
    decode .b (.ofWord 0x80000100#32) = .error .reservedBits ∧
    decode .b (.ofWord 0xA0000008#32) = .error .reservedBits := by decide +kernel

theorem test_decodeTableWord :
    decodeTableWord 32 0x24000001 = some (.triggerStop .tx) ∧
    decodeTableWord 32 0x90000003 = some (.txDone 3#8) ∧
    decodeTableWord 32 0x38000000 = none ∧
    decodeTableWord 96 0x000000B10000010054000000 = some (.write (hd 0xB1) 0x100#32) := by
  decide +kernel

/-! ### Small states -/

/-- REC0 of 95_test_vectors.md. -/
def rec0 : Cfg := cfgOfWords 0xBB80#32 0x210#32 0x100#32 4#32 0x64#32

/-- Blocks of 256 bytes. -/
def blocks (l : List Nat) : List Block := l.map fun n => { h := hd n, sz := 256#32 }

/-- A state in which the stream is armed. -/
def isArmed (q : StreamState) : Bool := decide (q = .running ∨ q = .stopping)

/-- A stream in state `q` with Blocks `l` queued from slot 0 and, if armed, Block `a` under DMA. -/
def strm (q : StreamState) (a : Nat) (l : List Nat) : Stream :=
  { Stream.reset with
    state := q, armed := isArmed q,
    active := if isArmed q then { h := hd a, sz := 256#32 } else Block.null,
    slots := (List.range l.length).zip (blocks l), head := l.length,
    faultCause := if q = .error then .dmaError else .none,
    cfg := if q = .notReady then Cfg.zero else rec0 }

/-- A Device: RX in state `q` with Blocks `l` queued, all seen, and Block 0x51 under DMA if armed;
TX in state `r` with Blocks `m` queued and Block 0x50 under DMA if armed. QCAP is 2 and 4. -/
def dev (q : StreamState) (l : List Nat) (r : StreamState) (m : List Nat) : State :=
  { State.reset with
    rx := { strm q 0x51 l with giveCnt := l.length, giveView := l.length },
    tx := { strm r 0x50 m with takeCnt := m.length },
    periphEnabled := isArmed q || isArmed r }

/-- The same, full duplex. -/
def duplex (s : State) : State := { s with fullDuplex := true, par.fullDuplex := true }

/-- A stream with `options` bits `v` set. -/
def withOpt (v : BitVec 8) (t : Stream) : Stream := { t with cfg.options := v }

/-- The next state, where there is one. -/
def after (o : Host.Outcome State Fault Refusal) : State :=
  match o with
  | .next t => t
  | .fault _ => State.reset
  | .refused _ => State.reset

/-- The outcome is a next state. -/
def isNext (o : Host.Outcome State Fault Refusal) : Bool :=
  match o with
  | .next _ => true
  | .fault _ => false
  | .refused _ => false

theorem next_of_isNext (o : Host.Outcome State Fault Refusal) (h : isNext o = true) :
    o = .next (after o) := by
  cases o with
  | next t => rfl
  | fault _ => cases h
  | refused _ => cases h

/-- The codes answered, with their channels, in order. -/
def answers (s : State) : List (Channel × Code) := (responses s).map fun r => (r.ch, r.code)

/-! ### One vector, at most two, for each operation -/

/-- The three disarm calls, before the calls `l`. -/
def disarm (d : Dir) (l : List Call) : List Call :=
  .dmareqDisable d :: .errirqDisable d :: .dmaStop d :: l

/-- Pool answers presented to RX and TX. -/
def offer (l m : List PoolAnswer) (s : State) : State := { s with rxPool := l, txPool := m }

/-- G1. -/
theorem test_configure_G1 :
    let t := after (exec (.configure .rx 0xBB80#32 0x210#32 0x100#32 4#32 0x64#32) State.reset)
    t.rx.state = .ready ∧ t.rx.cfg.freq = 48000#32 ∧ t.rx.cfg.wordSize = 16#6 ∧
    t.rx.cfg.channelCount = 2#8 ∧ t.rx.cfg.blockSize = 256#32 ∧ t.rx.cfg.blockCount = 4#16 ∧
    t.rx.cfg.timeout = 100#32 ∧ t.tx.state = .notReady ∧ answers t = [(.cmd, .ok)] := by
  decide +kernel

/-- G12: the repeat policy without a filler is refused on TX and harmless on RX. -/
theorem test_configure_G12 :
    answers (after (exec (.configure .tx 0xBB80#32 0x08000210#32 0x100#32 4#32 0x64#32)
      (dev .ready [] .ready []))) = [(.cmd, .invalidArgument)] ∧
    answers (after (exec (.configure .rx 0xBB80#32 0x08000210#32 0x100#32 4#32 0x64#32)
      (dev .ready [] .ready []))) = [(.cmd, .ok)] := by
  decide +kernel

/-- P1 step 2. -/
theorem test_triggerStart_P1 :
    let t := after (exec (.triggerStart .tx) (offer [] [.block (hd 0x50)] (dev .notReady [] .ready [])))
    trace t = [.poolAlloc .tx, .cacheClean (hd 0x50) 256#32,
      .dmaConfigure .tx (.block (hd 0x50)) .periphDr 256#32 16#6, .dmaStart .tx, .errirqEnable .tx,
      .dmareqEnable .tx, .periphEnable] ∧
    t.tx.state = .running ∧ t.tx.active = { h := hd 0x50, sz := 256#32 } ∧ t.tx.armed = true ∧
    t.periphEnabled = true ∧ answers t = [(.cmd, .ok)] := by
  decide +kernel

/-- P3 step 3. -/
theorem test_triggerStart_P3 :
    let t := after (exec (.triggerStart .both)
      (offer [.block (hd 0xA1)] [.busy] (duplex (dev .ready [] .ready []))))
    trace t = [.poolAlloc .rx, .poolAlloc .tx, .poolFree .rx (hd 0xA1)] ∧
    t.rx.state = .ready ∧ t.tx.state = .ready ∧ answers t = [(.cmd, .resourceExhausted)] := by
  decide +kernel

/-- P1 step 8. -/
theorem test_triggerStop_P1 :
    let t := after (exec (.triggerStop .tx) (dev .notReady [] .running [1, 2, 3, 4]))
    trace t = disarm .tx [.poolFree .tx (hd 0x50), .periphDisable, .poolFree .tx (hd 1),
      .poolFree .tx (hd 2), .poolFree .tx (hd 3), .poolFree .tx (hd 4)] ∧
    t.tx.state = .ready ∧ t.tx.head = 4 ∧ t.tx.tail = 4 ∧ flowTrue .tx t = 4 := by
  decide +kernel

/-- W7: the waiting READ is answered TIMEOUT in the one step. -/
theorem test_triggerStop_W7 :
    let t := after (exec (.triggerStop .rx) { dev .running [] .notReady [] with rdPhase := .wait })
    answers t = [(.rd, .timeout), (.cmd, .ok)] ∧ t.rdPhase = .idle := by
  decide +kernel

/-- T12. -/
theorem test_triggerDrain_T12 :
    trace (after (exec (.triggerDrain .rx) (dev .running [1, 2] .notReady []))) =
      disarm .rx [.poolFree .rx (hd 0x51), .periphDisable, .poolFree .rx (hd 1),
        .poolFree .rx (hd 2)] := by
  decide +kernel

/-- W15: the waiting WRITE is answered INVALID_STATE. -/
theorem test_triggerDrain_W15 :
    let t := after (exec (.triggerDrain .tx)
      { dev .notReady [] .running [1, 2, 3, 4] with wrPhase := .wait, wrH := hd 5, wrSz := 256#32 })
    answers t = [(.wr, .invalidState), (.cmd, .ok)] ∧ t.tx.state = .stopping ∧
    t.lastBlockFlag = false ∧ trace t = [] := by
  decide +kernel

/-- T19. -/
theorem test_triggerDrop_T19 :
    let t := after (exec (.triggerDrop .tx) (dev .notReady [] .stopping [2]))
    trace t = disarm .tx [.poolFree .tx (hd 0x50), .periphDisable, .poolFree .tx (hd 2)] ∧
    t.tx.state = .ready ∧ t.lastBlockFlag = false := by
  decide +kernel

/-- T17. -/
theorem test_triggerDrop_T17 :
    trace (after (exec (.triggerDrop .rx) (dev .ready [] .notReady []))) =
      disarm .rx [.periphDisable] := by
  decide +kernel

/-- P2 step 10. -/
theorem test_triggerPrepare_P2 :
    let t := after (exec (.triggerPrepare .rx) (dev .error [1, 2] .notReady []))
    trace t = [.poolFree .rx (hd 1), .poolFree .rx (hd 2)] ∧ t.rx.state = .ready ∧ t.rx.tail = 2 ∧
    t.rx.giveCnt = 0 ∧ t.rx.faultCause = .none ∧ answers t = [(.cmd, .ok)] := by
  decide +kernel

/-- T21: PREPARE outside ERROR. -/
theorem test_triggerPrepare_T21 :
    answers (after (exec (.triggerPrepare .rx) (dev .notReady [] .error []))) =
      [(.cmd, .invalidState)] := by
  decide +kernel

/-- G16. -/
theorem test_status_G16 : statusWord .tx (dev .notReady [] .running [1, 2, 3, 4]) = 0x0400020A#32 := by
  decide +kernel

/-- The worked example of 44_configure_status.md R273. -/
theorem test_status_overrun :
    statusWord .rx { dev .error [1, 2] .notReady [] with
      rx := { (dev .error [1, 2] .notReady []).rx with faultCause := .overrun } } =
    0x02020104#32 := by
  decide +kernel

/-- W1. -/
theorem test_read_W1 :
    answers (after (exec .read (dev .error [] .ready []))) = [(.rd, .invalidState)] ∧
    (after (exec .read (dev .error [] .ready []))).rdPhase = .idle := by
  decide +kernel

/-- W2, the accept and the grant. -/
theorem test_read_W2 :
    let t := after (exec .read (dev .running [1] .ready []))
    t.rdPhase = .wait ∧ t.rdTimer = 100#32 ∧
    responses (rdGrant t) = [{ ch := .rd, code := .ok, blk := hd 1, size := 256#32, sw := 0 }] ∧
    queued .rx (rdGrant t) = [] ∧ (rdGrant t).rx.takeCnt = 1 := by
  decide +kernel

/-- W10. -/
theorem test_write_W10 :
    answers (after (exec (.write (hd 1) 0#32) (dev .ready [] .running []))) =
      [(.wr, .invalidArgument)] ∧
    answers (after (exec (.write (hd 1) 257#32) (dev .ready [] .running []))) =
      [(.wr, .invalidArgument)] ∧
    answers (after (exec (.write NULL 16#32) (dev .ready [] .running []))) =
      [(.wr, .invalidArgument)] := by
  decide +kernel

/-- W16, the accept and the grant in READY. -/
theorem test_write_W16 :
    let t := after (exec (.write (hd 1) 256#32) (dev .notReady [] .ready []))
    t.wrPhase = .wait ∧ t.wrH = hd 1 ∧ t.wrTimer = 100#32 ∧
    answers (wrGrant t) = [(.wr, .ok)] ∧ queued .tx (wrGrant t) = blocks [1] ∧
    flowView .tx (wrGrant t) = 3 := by
  decide +kernel

/-- G18. -/
theorem test_teardown_G18 :
    trace (after (exec .teardown State.reset)) = [] ∧
    answers (after (exec .teardown State.reset)) = [(.cmd, .ok)] := by
  decide +kernel

/-- R274 on two running streams: RX first, and the peripheral goes off with TX. -/
theorem test_teardown_both :
    trace (after (exec .teardown (dev .running [1] .running [2]))) =
      disarm .rx (.poolFree .rx (hd 0x51) :: .poolFree .rx (hd 1) ::
        disarm .tx [.poolFree .tx (hd 0x50), .periphDisable, .poolFree .tx (hd 2)]) := by
  decide +kernel

/-- C4. -/
theorem test_rxDone_C4 :
    let t := after (exec (.rxDone 0#8) (offer [.block (hd 0x52)] [] (dev .running [1, 2] .ready [])))
    trace t = .poolAlloc .rx :: .dmaReload .rx .periphDr (.block (hd 0x52)) 256#32 ::
      .poolFree .rx (hd 0x51) :: disarm .rx [.poolFree .rx (hd 0x52), .periphDisable] ∧
    t.rx.state = .error ∧ t.rx.faultCause = .overrun ∧ queued .rx t = blocks [1, 2] ∧
    t.overrun = false := by
  decide +kernel

/-- C1. -/
theorem test_rxDone_C1 :
    let t := after (exec (.rxDone 0#8) (offer [.block (hd 0x52)] [] (dev .running [] .ready [])))
    trace t = [.poolAlloc .rx, .dmaReload .rx .periphDr (.block (hd 0x52)) 256#32] ∧
    queued .rx t = blocks [0x51] ∧ t.rx.active = { h := hd 0x52, sz := 256#32 } ∧
    t.rx.giveCnt = 1 := by
  decide +kernel

/-- C10. -/
theorem test_txDone_C10 :
    let s := dev .ready [] .running []
    let t := after (exec (.txDone 0#8) { s with tx := withOpt 8#8 s.tx, par.hasFiller := true })
    trace t = [.fillerCopy (hd 0x50) 256#32, .poolFree .tx (hd 0x50),
      .cacheClean (hd 0xFFFFFFFF) 256#32,
      .dmaReload .tx (.block (hd 0xFFFFFFFF)) .periphDr 256#32] ∧
    t.tx.active = { h := hd 0xFFFFFFFF, sz := 256#32 } ∧ t.fillerSize = 256#32 ∧
    t.underrun = true ∧ t.tx.giveCnt = 0 := by
  decide +kernel

/-- C12. -/
theorem test_txDone_C12 :
    let t := after (exec (.txDone 0#8) (dev .ready [] .stopping [1]))
    trace t = [.poolFree .tx (hd 0x50), .cacheClean (hd 1) 256#32,
      .dmaReload .tx (.block (hd 1)) .periphDr 256#32] ∧
    t.tx.state = .stopping ∧ t.lastBlockFlag = true ∧ t.tx.giveCnt = 1 ∧ queued .tx t = [] := by
  decide +kernel

/-- C17. -/
theorem test_periphFault_C17 :
    let t := after (exec (.periphFault 2#3) (dev .running [] .running []))
    trace t = .clearErrors :: disarm .rx (.poolFree .rx (hd 0x51) ::
      disarm .tx [.poolFree .tx (hd 0x50), .periphDisable]) ∧
    t.rx.faultCause = .periph ∧ t.tx.faultCause = .periph := by
  decide +kernel

/-- C18. -/
theorem test_periphFault_C18 :
    let t := after (exec (.periphFault 1#3) (duplex (dev .ready [] .stopping [])))
    trace t = .clearErrors :: disarm .tx (.poolFree .tx (hd 0x50) :: .periphDisable ::
      disarm .rx [.periphDisable]) ∧
    t.rx.faultCause = .peer ∧ t.tx.faultCause = .periph := by
  decide +kernel

/-! ### The queue, the counter, the internal steps -/

/-- Q6, Q7: the index wraps; a full queue refuses. -/
theorem test_push_Q6_Q7 :
    let s := State.reset.upd .rx fun t => { t with head := 2, tail := 1 }
    (push .rx { h := hd 3, sz := 256#32 } s).map (fun t => (t.rx.head, occ .rx t)) = some (0, 2) ∧
    push .rx { h := hd 4, sz := 256#32 } (State.reset.upd .rx fun t => { t with tail := 1 }) =
      none := by
  decide +kernel

/-- F6 to F8. -/
theorem test_counter_F6_F7_F8 :
    let s := State.reset.upd .rx fun t => { t with giveCnt := 7, takeCnt := 7, giveView := 7 }
    let t := give .rx s
    (flowTrue .rx t, flowView .rx t, t.rx.giveCnt) = (1, 0, 0) ∧
    (sync .rx 1 t).rx.giveView = 0 ∧ flowView .rx (sync .rx 1 t) = 1 ∧
    (take .rx (sync .rx 1 t)).rx.takeCnt = 0 ∧ flowTrue .rx (take .rx (sync .rx 1 t)) = 0 := by
  decide +kernel

/-- The gray codes of 95_test_vectors.md 2.1 for four bits. -/
theorem test_gray_W4 :
    grayCode 7#4 = 0b0100#4 ∧ grayCode 8#4 = 0b1100#4 ∧ grayCode 15#4 = 0b1000#4 ∧
    grayCode 0#4 = 0b0000#4 ∧ grayDecode 0b1100#4 = 8#4 := by
  decide +kernel

/-- W3, W4: the timeout is enabled when the timer is 0, not before. -/
theorem test_timeout_W3 :
    let s := { dev .running [] .ready [] with rdPhase := .wait, rdTimer := 2#32 }
    enabled .rdTimeout (tick s) = false ∧ enabled .rdTimeout (tick (tick s)) = true ∧
    answers (rdTimeout (tick (tick s))) = [(.rd, .timeout)] := by
  decide +kernel

/-- W12: the waiting WRITE times out and its Block stays the application's. -/
theorem test_timeout_W12 :
    let s := { dev .ready [] .running [1, 2, 3, 4] with wrPhase := .wait, wrH := hd 5, wrSz := 256#32 }
    enabled .wrGrant s = false ∧ enabled .wrTimeout s = true ∧ (wrTimeout s).wrH = NULL ∧
    answers (wrTimeout s) = [(.wr, .timeout)] ∧ trace (wrTimeout s) = [] := by
  decide +kernel

/-- The step takes the word that withFetchWord presents. -/
theorem test_step_fetched :
    answers (after (step (State.reset.withFetchWord 32 0x40000000))) = [(.rd, .invalidState)] ∧
    trace (after (step (State.reset.withFetchWord 32 0xA0000001))) = [.clearErrors] := by
  decide +kernel

/-- R94: within a step the answers come before the calls, and the calls before the responses,
whatever the order the rules make them in: a waiting READ answered TIMEOUT by STOP BOTH, and START. -/
theorem test_step_history_R94 :
    (after (step { dev .running [] .running [] with
      rdPhase := .wait, pending := [.command (.ofWord 0x28000001#32)] })).log =
      [.op (.command (.ofWord 0x28000001#32))] ++
      (disarm .rx [.poolFree .rx (hd 0x51)] ++
        disarm .tx [.poolFree .tx (hd 0x50), .periphDisable]).map .call ++
      [answered .rd .timeout, answered .cmd .ok] ∧
    (after (step { offer [.block (hd 0xA1)] [.busy] (dev .ready [] .ready []) with
      pending := [.command (.ofWord 0x28000000#32)] })).log =
      [.op (.command (.ofWord 0x28000000#32)), .alloc .rx (.block (hd 0xA1)), .alloc .tx .busy,
        .call (.poolAlloc .rx), .call (.poolAlloc .tx), .call (.poolFree .rx (hd 0xA1)),
        answered .cmd .resourceExhausted] := by
  decide +kernel

/-- R54 item 1: a pool does not answer a Block that is in flight, queued, the application's, or
obtained by the same step; nor one that is no value of BLK_W wires. -/
theorem test_ask_R54 :
    let s := { dev .running [1] .running [2] with app := [hd 3] }
    [0, 0x51, 0x50, 1, 2, 3, 0xFFFFFFFF, 2 ^ 32].map (fun n => legalAnswer s [] (.block (hd n))) =
      List.replicate 8 false ∧
    legalAnswer s [] (.block (hd 4)) = true ∧ legalAnswer s [hd 4] (.block (hd 4)) = false ∧
    (ask .rx [] (offer [.block (hd 2)] [] s)).1 = .busy ∧
    (ask .rx [] (offer [.block (hd 4)] [] s)).1 = .block (hd 4) := by
  decide +kernel

/-- R7: WRITE on a Device of another BLK_W samples its wires. -/
theorem test_write_BLK_W :
    let s := { dev .ready [] .running [] with par.blkW := 4, par.filler := hd 15 }
    (after (exec (.write (hd 0x15) 16#32) s)).wrH = hd 5 ∧
    answers (after (exec (.write (hd 0x1F) 16#32) s)) = [(.wr, .invalidArgument)] := by
  decide +kernel

/-! ### Witnesses: the hypotheses of each statement can be met, its clauses at the ends of their
ranges -/

/-- Both streams RUNNING with full queues, a READ and a WRITE waiting. -/
def busyDev : State :=
  { dev .running [1, 2] .running [1, 2, 3, 4] with
    rdPhase := .wait, rdTimer := 3#32, wrPhase := .wait, wrH := hd 5, wrSz := 256#32 }

/-- RX in ERROR with a Block queued, TX draining with two. -/
def drainDev : State := dev .error [1] .stopping [2, 3]

/-- TX draining its last Block. -/
def lastDev : State := { dev .ready [] .stopping [] with lastBlockFlag := true }

theorem inv_busyDev : Inv busyDev := by
  repeat' (first | decide +kernel | constructor)

theorem inv_drainDev : Inv drainDev := by
  repeat' (first | decide +kernel | constructor)

theorem inv_lastDev : Inv lastDev := by
  repeat' (first | decide +kernel | constructor)

theorem bounds_full (d : Dir) : StreamBounds d (dev .running [1, 2] .running [1, 2, 3, 4]) := by
  cases d <;> constructor <;> decide +kernel

theorem bounds_empty (d : Dir) : StreamBounds d (dev .running [] .running []) := by
  cases d <;> constructor <;> decide +kernel

theorem witness_DecodeOfEncode :
    (Instr.status .tx).wellFormed = true ∧ (Instr.rxDone 255#8).wellFormed = true := by decide

theorem witness_EncodeOfDecode :
    decode .a (.ofWord 0x10000000#32) = .ok (.configure .rx 0 0 0 0 0) ∧
    decode .b (.ofWord 0xA0000007#32) = .ok (.periphFault 7#3) := by decide

/-- A word presented alone on the A port, with the data channels idle. -/
def presented (w : Word) : State := { State.reset with pending := [.command (.ofWord w)] }

theorem witness_IllegalCommandAnswered :
    assertAll (presented 0x00000000#32) = none ∧ assertAll (presented 0x44000000#32) = none ∧
    assertAll (presented 0x50000000#32) = none ∧
    channelIdle (route 0x00000000#32) (presented 0x00000000#32) = true ∧
    channelIdle (route 0x44000000#32) (presented 0x44000000#32) = true ∧
    channelIdle (route 0x50000000#32) (presented 0x50000000#32) = true ∧
    decodeCommand (.ofWord 0x00000000#32) = .error .badOp ∧
    decodeCommand (.ofWord 0x44000000#32) = .error .badDir ∧
    decodeCommand (.ofWord 0x50000000#32) = .error .badDir := by
  decide +kernel

theorem witness_IllegalEventDiscarded :
    ∃ e, decodeEvent 0xA0000008#32 = .error e := ⟨.reservedBits, by decide⟩

theorem witness_StepRunsDecoded :
    let s := presented 0x30000000#32
    let u := { State.reset with pending := [.event 0x80000000#32] }
    assertAll s = none ∧ channelIdle (route 0x30000000#32) s = true ∧
    decode .a (.ofWord 0x30000000#32) = .ok (.status .rx) ∧
    isNext (exec (.status .rx) s) = true ∧
    assertAll u = none ∧ decode .b (.ofWord 0x80000000#32) = .ok (.rxDone 0#8) ∧
    isNext (exec (.rxDone 0#8) u) = true := by
  decide +kernel

theorem witness_BusyChannelHoldsOff :
    let s := { busyDev with pending := [.command (.ofWord 0x40000000#32), .tick] }
    assertAll s = none ∧ channelIdle (route 0x40000000#32) s = false ∧ enabled .tick s = true ∧
    busyDev.rdPhase = .wait ∧ busyDev.wrPhase = .wait := by
  decide +kernel

/-- A waiting READ that the view answers; a waiting READ whose time is up. -/
theorem witness_OwnStepOrWait_rd :
    let s := { dev .running [1] .ready [] with rdPhase := .wait }
    let u := { dev .running [] .ready [] with rdPhase := .wait }
    assertAll s = none ∧ s.pending = [] ∧ enabled .rdGrant s = true ∧
    assertAll u = none ∧ u.pending = [] ∧ enabled .rdGrant u = false ∧
    enabled .rdTimeout u = true := by
  decide +kernel

/-- With a READ waiting on an empty view and a timer that runs: the grant, and the timeout, of WR. -/
theorem witness_OwnStepOrWait_wr :
    let s := { dev .running [] .ready [1, 2, 3] with
      rdPhase := .wait, rdTimer := 3#32, wrPhase := .wait }
    let u := { dev .running [] .ready [1, 2, 3, 4] with
      rdPhase := .wait, rdTimer := 3#32, wrPhase := .wait }
    assertAll s = none ∧ enabled .rdGrant s = false ∧ enabled .rdTimeout s = false ∧
    enabled .wrGrant s = true ∧
    assertAll u = none ∧ enabled .rdGrant u = false ∧ enabled .rdTimeout u = false ∧
    enabled .wrGrant u = false ∧ enabled .wrTimeout u = true := by
  decide +kernel

/-- With a READ and a WRITE waiting on timers that run: SYNC(RX), SYNC(TX), and nothing. -/
theorem witness_OwnStepOrWait_sync_and_wait :
    let w := fun s : State =>
      { s with rdPhase := .wait, rdTimer := 3#32, wrPhase := .wait, wrTimer := 1#32 }
    let s := w ((dev .running [1] .ready [1, 2, 3, 4]).upd .rx fun t => { t with giveView := 0 })
    let u := w ((dev .ready [] .running [1, 2, 3, 4]).upd .tx fun t => { t with giveCnt := 1 })
    let v := w (dev .ready [] .running [1, 2, 3, 4])
    let quiet := fun s : State => assertAll s = none ∧ enabled .rdGrant s = false ∧
      enabled .rdTimeout s = false ∧ enabled .wrGrant s = false ∧ enabled .wrTimeout s = false
    quiet s ∧ quiet u ∧ quiet v ∧ 0 < viewLag .rx s ∧
    viewLag .rx u = 0 ∧ 0 < viewLag .tx u ∧ viewLag .rx v = 0 ∧ viewLag .tx v = 0 := by
  decide +kernel

theorem witness_InvAtReset : Config.params.ok := by decide

/-- Inv is met and a step is taken: a TICK, a completion, the hardware's own step. -/
theorem witness_StepKeepsInv :
    Inv { busyDev with pending := [.tick] } ∧ Inv { drainDev with pending := [.event 0x90000000#32] } ∧
    Inv lastDev ∧
    isNext (step { busyDev with pending := [.tick] }) = true ∧
    isNext (step { drainDev with pending := [.event 0x90000000#32] }) = true ∧
    isNext (step lastDev) = true := by
  refine ⟨?_, ?_, inv_lastDev, by decide +kernel, by decide +kernel, by decide +kernel⟩
  · repeat' (first | decide +kernel | constructor)
  · repeat' (first | decide +kernel | constructor)

theorem witness_InvSteps : Inv busyDev := inv_busyDev

theorem witness_StoredConfigurationValid : Inv drainDev ∧ CfgInv drainDev ∧
    step drainDev = .next (after (step drainDev)) := by
  refine ⟨inv_drainDev, ?_, next_of_isNext _ (by decide +kernel)⟩
  constructor
  · intro d; cases d <;> decide +kernel
  · intro d; cases d <;> intro _ <;> constructor <;> decide +kernel
  · decide +kernel

theorem witness_CauseExactlyInError : Inv drainDev ∧ CauseInv drainDev ∧
    step drainDev = .next (after (step drainDev)) := by
  refine ⟨inv_drainDev, ?_, next_of_isNext _ (by decide +kernel)⟩
  intro d; cases d <;> decide +kernel

/-- TX drains its last Block, obtained from the pool; the completion is presented. -/
theorem witness_BlocksConservedAndOwnedOnce_count :
    let s := { lastDev with
      log := [.alloc .tx (.block (hd 0x50))], pending := [.event 0x90000000#32] }
    Inv s ∧ Conserved .tx s ∧ Conserved .rx s ∧ step s = .next (after (step s)) := by
  refine ⟨?_, by unfold Conserved; decide +kernel, by unfold Conserved; decide +kernel,
    next_of_isNext _ (by decide +kernel)⟩
  repeat' (first | decide +kernel | constructor)

/-- Two streams at work with a Block of the application's waiting to be queued; the application
WRITEs one it owns. -/
theorem witness_BlocksConservedAndOwnedOnce_owner :
    let s := { dev .running [1] .running [2, 3] with
      app := [hd 5, hd 6],
      pending := [.command (encode (.write (hd 5) 16#32))] }
    let u := { dev .running [7, 8] .running [1, 2] with
      wrPhase := .wait, wrH := hd 5, app := [hd 6, hd 5] }
    Inv s ∧ OneOwner s ∧ WriteDuty s ∧ step s = .next (after (step s)) ∧
    (after (step s)).wrH = hd 5 ∧ OneOwner u := by
  refine ⟨?_, ⟨by decide +kernel, by decide +kernel⟩, ?_, next_of_isNext _ (by decide +kernel),
    by decide +kernel, ⟨by decide +kernel, by decide +kernel⟩⟩
  · repeat' (first | decide +kernel | constructor)
  · intro b rest blk size hp hd
    have h : pick _ [Stimulus.command (encode (.write { val := 5 } 16#32))] =
      some (.command b, rest) := hp
    have hb : b = encode (.write { val := 5 } 16#32) := by
      have h2 : (some (Stimulus.command (encode (.write { val := 5 } 16#32)), []) :
          Option (Stimulus × List Stimulus)) = some (.command b, rest) := h
      cases h2
      rfl
    subst hb
    cases hd
    decide +kernel

theorem witness_QueueIsFifo : StreamBounds .rx (dev .running [1, 2] .running [1, 2, 3, 4]) :=
  bounds_full .rx

/-- Full and not, empty and not. -/
theorem witness_PushPopBoundaries :
    let b : Block := { h := hd 9, sz := 1#32 }
    let s := dev .running [1, 2] .running [1, 2, 3, 4]
    let u := dev .running [] .running []
    push .rx b s = none ∧ (pop .rx s).isSome = true ∧ (push .rx b u).isSome = true ∧
    pop .rx u = none := by
  decide +kernel

theorem witness_GrayCode : 0 < 1 ∧ 0 < 64 := by decide

/-- A view two behind, both ends of the choice. -/
theorem witness_SyncMovesView :
    let s := (dev .running [1, 2] .ready []).upd .rx fun t => { t with giveView := 0 }
    StreamInv .rx s ∧ enabled (.sync .rx 1) s = true ∧ enabled (.sync .rx 2) s = true ∧
    enabled (.sync .rx 3) s = false := by
  refine ⟨?_, by decide +kernel, by decide +kernel, by decide +kernel⟩
  repeat' (first | decide +kernel | constructor)

theorem witness_GiveAndTake :
    StreamInv .rx (dev .running [1] .ready []) ∧
    flowTrue .rx (dev .running [1] .ready []) < (dev .running [1] .ready []).qcap .rx ∧
    0 < flowView .rx (dev .running [1] .ready []) := by
  refine ⟨?_, by decide +kernel, by decide +kernel⟩
  repeat' (first | decide +kernel | constructor)

theorem witness_ReadAccept :
    (dev .error [] .ready []).rdPhase = .idle ∧ (dev .error [] .ready []).rx.state = .error ∧
    (dev .ready [] .ready []).rdPhase = .idle ∧ (dev .ready [] .ready []).rx.state = .ready := by
  decide +kernel

/-- The legal sizes 1 and 256; 0 and 257, NULL and FILLER on the other side. -/
theorem witness_WriteAccept :
    let s := dev .ready [] .running []
    s.wrPhase = .idle ∧ s.tx.state = .running ∧ s.tx.cfg.blockSize = 256#32 ∧
    writeArgsBad (hd 5) 1#32 s = false ∧ writeArgsBad (hd 5) 256#32 s = false ∧
    writeArgsBad (hd 5) 0#32 s = true ∧ writeArgsBad (hd 5) 257#32 s = true ∧
    writeArgsBad NULL 1#32 s = true ∧ writeArgsBad s.par.filler 1#32 s = true ∧
    (dev .ready [] .stopping []).tx.state ≠ .ready ∧
    (dev .ready [] .stopping []).tx.state ≠ .running := by
  decide +kernel

theorem witness_ReadGrantDelivers : RxInv busyDev ∧ enabled .rdGrant busyDev = true :=
  ⟨inv_busyDev.rx, by decide +kernel⟩

theorem witness_WriteGrantQueues :
    let s := { dev .ready [] .running [1, 2, 3] with wrPhase := .wait, wrH := hd 5, wrSz := 256#32 }
    TxInv s ∧ enabled .wrGrant s = true := by
  refine ⟨?_, by decide +kernel⟩
  repeat' (first | decide +kernel | constructor)

theorem witness_TimersAndTimeouts :
    enabled .rdTimeout { dev .running [] .ready [] with rdPhase := .wait } = true ∧
    enabled .wrTimeout { dev .ready [] .running [1, 2, 3, 4] with wrPhase := .wait } = true := by
  decide +kernel

/-- A READ with a timeout of 2, timed out after two TICKs; a WRITE with a timeout of 0, at once. -/
theorem witness_NoTimeoutBeforeTicks :
    let s := (dev .running [] .ready []).upd .rx fun t => { t with cfg.timeout := 2#32 }
    let r := (dev .ready [] .running [1, 2, 3, 4]).upd .tx fun t => { t with cfg.timeout := 0#32 }
    s.rdPhase = .idle ∧ s.rx.state = .running ∧
    ((waitedRun .rd [.tick, .tick] (after (exec .read s))).map (enabled .rdTimeout ·)) = some true ∧
    r.wrPhase = .idle ∧ r.tx.state = .running ∧ writeArgsBad (hd 5) 256#32 r = false ∧
    ((waitedRun .wr [] (after (exec (.write (hd 5) 256#32) r))).map (enabled .wrTimeout ·)) =
      some true := by
  decide +kernel

theorem witness_StartOneStream :
    let s := offer [.block (hd 0xA1)] [.block (hd 0xA2)] (dev .ready [] .ready [])
    s.fullDuplex = false ∧ s.rx.state = .ready ∧ s.tx.state = .ready ∧
    poolList .rx s = [.block (hd 0xA1)] ∧ poolList .tx s = [.block (hd 0xA2)] ∧
    legalAnswer s [] (.block (hd 0xA1)) = true ∧ legalAnswer s [] (.block (hd 0xA2)) = true := by
  decide +kernel

/-- A Block from both pools; from the RX pool alone; from neither; one target and BUSY. -/
theorem witness_StartAllOrNothing :
    let s := offer [.block (hd 0xA1)] [.block (hd 0xA2)] (dev .ready [] .ready [])
    let u := offer [.block (hd 0xA1)] [.busy] (dev .ready [] .ready [])
    let v := offer [.busy] [.busy] (dev .ready [] .ready [])
    (∀ d ∈ targets .both s, (s.stream d).state = .ready) ∧ targets .both s = [.rx, .tx] ∧
    legalAnswer s [] (.block (hd 0xA1)) = true ∧
    legalAnswer s [hd 0xA1] (.block (hd 0xA2)) = true ∧
    (∀ d ∈ targets .both u, (u.stream d).state = .ready) ∧ targets .both u = [.rx, .tx] ∧
    u.rxPool = [.block (hd 0xA1)] ∧ u.txPool = [.busy] ∧
    legalAnswer u [] (.block (hd 0xA1)) = true ∧
    targets .both v = .rx :: [.tx] ∧ poolList .rx v = [.busy] ∧
    targets .tx v = .tx :: [] ∧ poolList .tx v = [.busy] ∧
    (∀ d ∈ targets .both v, (v.stream d).state = .ready) := by
  decide +kernel

theorem witness_StopOneStream :
    StreamBounds .rx (dev .running [1, 2] .running [1, 2, 3, 4]) ∧
    (dev .running [1, 2] .running [1, 2, 3, 4]).fullDuplex = false ∧
    (dev .running [1, 2] .running [1, 2, 3, 4]).rx.state = .running ∧
    (dev .running [1, 2] .running [1, 2, 3, 4]).rx.state ≠ .notReady :=
  ⟨bounds_full .rx, by decide, by decide, by decide⟩

theorem witness_StopBothStreams :
    StreamBounds .rx (dev .running [1, 2] .running [1, 2, 3, 4]) ∧
    StreamBounds .tx (dev .running [1, 2] .running [1, 2, 3, 4]) ∧
    (dev .running [1, 2] .running [1, 2, 3, 4]).rx.state = .running ∧
    (dev .running [1, 2] .running [1, 2, 3, 4]).tx.state = .running :=
  ⟨bounds_full .rx, bounds_full .tx, by decide, by decide⟩

theorem witness_DropAlwaysRecovers :
    Inv drainDev ∧ ∀ d ∈ targets .both drainDev, (drainDev.stream d).state ≠ .notReady :=
  ⟨inv_drainDev, by decide +kernel⟩

/-- Both streams RUNNING, with and without a READ and a WRITE waiting. -/
theorem witness_DrainCommand :
    let s := dev .running [1, 2] .running [1, 2, 3, 4]
    s.tx.state = .running ∧ s.fullDuplex = false ∧ s.rx.state = .running ∧ StreamBounds .rx s ∧
    busyDev.tx.state = .running ∧ busyDev.rx.state = .running ∧ StreamBounds .rx busyDev ∧
    busyDev.wrPhase = .wait ∧ busyDev.rdPhase = .wait :=
  ⟨by decide, by decide, by decide, bounds_full .rx, by decide, by decide,
    inv_busyDev.rx.stream.bounds, by decide, by decide⟩

theorem witness_DrainPlaysOut :
    Inv drainDev ∧ drainDev.tx.state = .stopping ∧ occ .tx drainDev = 2 ∧
    Inv lastDev ∧ lastDev.tx.state = .stopping ∧ occ .tx lastDev = 0 :=
  ⟨inv_drainDev, by decide, by decide +kernel, inv_lastDev, by decide, by decide +kernel⟩

theorem witness_PrepareRecovers :
    let s := dev .error [1] .error []
    StreamBounds .rx s ∧ StreamBounds .tx s ∧
    ∀ d ∈ targets .both s, (s.stream d).state = .error := by
  refine ⟨?_, ?_, by decide +kernel⟩ <;> constructor <;> decide +kernel

theorem witness_TriggerTargets :
    (duplex State.reset).fullDuplex = true ∧ State.reset.fullDuplex = false := by decide

/-- A record that disables; REC0. -/
theorem witness_ConfigureStores :
    let s := dev .ready [] .notReady []
    StreamBounds .rx s ∧ StreamBounds .tx s ∧
    (∀ d ∈ addressed .both, (s.stream d).state = .notReady ∨ (s.stream d).state = .ready) ∧
    validRecord s.par (addressed .both) 0x210#32 4#32
      (cfgOfWords 0xBB80#32 0x210#32 0x100#32 4#32 0x64#32) = true := by
  refine ⟨?_, ?_, by decide +kernel, by decide +kernel⟩ <;> constructor <;> decide +kernel

/-- RUNNING in one of two streams; a word size of 20. -/
theorem witness_ConfigureRefuses :
    (∃ d ∈ addressed .both, ((dev .ready [] .running []).stream d).state = .running ∨
      ((dev .ready [] .running []).stream d).state = .stopping ∨
      ((dev .ready [] .running []).stream d).state = .error) ∧
    (∀ d ∈ addressed .rx, ((dev .ready [] .running []).stream d).state = .notReady ∨
      ((dev .ready [] .running []).stream d).state = .ready) ∧
    validRecord (dev .ready [] .running []).par (addressed .rx) 0x214#32 4#32
      (cfgOfWords 0xBB80#32 0x214#32 0x100#32 4#32 0x64#32) = false := by
  decide +kernel

theorem witness_TeardownResets : Inv busyDev := inv_busyDev

theorem witness_UnarmedCompletionDiscarded :
    ((dev .ready [] .error []).stream .rx).armed = false ∧
    ((dev .ready [] .error []).stream .tx).armed = false := by decide

theorem witness_ReceiveQueues :
    let s := offer [.block (hd 0x52)] [] (dev .running [] .running [])
    s.rx.armed = true ∧ s.rx.state ≠ .stopping ∧ StreamBounds .rx s ∧
    occ .rx s < s.par.qcapRx ∧ s.rxPool = [.block (hd 0x52)] ∧
    legalAnswer s [] (.block (hd 0x52)) = true := by
  refine ⟨by decide, by decide, ?_, by decide +kernel, by decide, by decide +kernel⟩
  constructor <;> decide +kernel

/-- The drop policy, the default, and no Block; half duplex, full duplex with TX RUNNING, and full
duplex with TX NOT_READY. -/
theorem witness_ReceiveLosses :
    let s := offer [.block (hd 0x52)] [] (dev .running [1, 2] .running [])
    let u := s.upd .rx (withOpt 4#8)
    let v := offer [.busy] [] (dev .running [1, 2] .notReady [])
    s.rx.armed = true ∧ s.rx.state ≠ .stopping ∧ StreamBounds .rx s ∧ StreamBounds .rx u ∧
    StreamBounds .rx (duplex s) ∧
    occ .rx s = s.par.qcapRx ∧ occ .rx u = u.par.qcapRx ∧ occ .rx (duplex s) = 2 ∧
    legalAnswer s [] (.block (hd 0x52)) = true ∧ legalAnswer u [] (.block (hd 0x52)) = true ∧
    legalAnswer (duplex s) [] (.block (hd 0x52)) = true ∧
    s.rx.cfg.options.getLsbD 2 = false ∧ u.rx.cfg.options.getLsbD 2 = true ∧
    s.fullDuplex = false ∧ (duplex s).fullDuplex = true ∧
    faultable (duplex s).tx.state = true ∧ faultable (duplex v).tx.state = false ∧
    v.rx.armed = true ∧ v.rxPool = [.busy] ∧ v.fullDuplex = false ∧ v.rx.state ≠ .stopping := by
  refine ⟨by decide, by decide, ?_, ?_, ?_, by decide +kernel, by decide +kernel,
    by decide +kernel, by decide +kernel, by decide +kernel, by decide +kernel, by decide +kernel,
    by decide +kernel, by decide, by decide, by decide, by decide, by decide, by decide,
    by decide, by decide⟩ <;>
  constructor <;> decide +kernel

/-- In RUNNING with more to come; in STOPPING with one Block left, with the last one under DMA, and
with none left. -/
theorem witness_TransmitNext :
    let s := dev .running [1, 2] .running [1, 2, 3, 4]
    let u := dev .ready [] .stopping [1]
    let v := dev .ready [] .stopping []
    s.tx.armed = true ∧ s.lastBlockFlag = false ∧ StreamBounds .tx s ∧
    queued .tx s = blocks [1] ++ blocks [2, 3, 4] ∧ s.tx.active.h ≠ s.par.filler ∧
    u.tx.armed = true ∧ u.lastBlockFlag = false ∧ StreamBounds .tx u ∧
    queued .tx u = blocks [1] ++ [] ∧ u.tx.active.h ≠ u.par.filler ∧
    lastDev.tx.armed = true ∧ lastDev.lastBlockFlag = true ∧ StreamBounds .tx lastDev ∧
    lastDev.tx.active.h ≠ lastDev.par.filler ∧
    v.tx.armed = true ∧ v.tx.state = .stopping ∧ queued .tx v = [] ∧ StreamBounds .tx v := by
  refine ⟨by decide, by decide, bounds_full .tx, by decide +kernel, by decide +kernel, by decide,
    by decide, ?_, by decide +kernel, by decide +kernel, by decide, by decide,
    inv_lastDev.tx.stream.bounds, by decide +kernel, by decide, by decide, by decide +kernel, ?_⟩
  <;> constructor <;> decide +kernel

/-- The filler under DMA, under the repeat policy, with Blocks `m` queued. -/
def fillerDev (m : List Nat) : State :=
  (dev .ready [] .running m).upd .tx fun t =>
    { withOpt 8#8 t with active := { h := Config.params.filler, sz := 256#32 } }

theorem witness_FillerCompletion :
    (fillerDev []).tx.armed = true ∧ (fillerDev []).tx.state = .running ∧
    (fillerDev []).lastBlockFlag = false ∧ StreamBounds .tx (fillerDev []) ∧
    StreamBounds .tx (fillerDev [1]) ∧ (fillerDev []).tx.active.h = (fillerDev []).par.filler ∧
    queued .tx (fillerDev []) = [] ∧ queued .tx (fillerDev [1]) = blocks [1] ++ [] ∧
    (fillerDev []).tx.cfg.options.getLsbD 3 = true := by
  refine ⟨by decide, by decide, by decide, ?_, ?_, by decide +kernel, by decide +kernel,
    by decide +kernel, by decide +kernel⟩ <;> constructor <;> decide +kernel

/-- The filler under DMA in STOPPING: with a Block queued, with none, and marked as the last. -/
theorem witness_FillerCompletion_stopping :
    let s := fun m => (fillerDev m).upd .tx fun t => { t with state := .stopping }
    let u := { s [] with lastBlockFlag := true }
    (s [1]).tx.armed = true ∧ (s [1]).tx.state = .stopping ∧ (s [1]).lastBlockFlag = false ∧
    StreamBounds .tx (s [1]) ∧ queued .tx (s [1]) = blocks [1] ++ [] ∧
    (s [1]).tx.active.h = (s [1]).par.filler ∧
    (s []).tx.state = .stopping ∧ queued .tx (s []) = [] ∧ StreamBounds .tx (s []) ∧
    u.lastBlockFlag = true ∧ StreamBounds .tx u ∧ u.tx.active.h = u.par.filler := by
  refine ⟨by decide, by decide, by decide, ?_, by decide +kernel, by decide +kernel, by decide,
    by decide +kernel, ?_, by decide, ?_, by decide +kernel⟩ <;> constructor <;> decide +kernel

theorem witness_TransmitUnderrun :
    let s := dev .running [] .running []
    let u := s.upd .tx (withOpt 8#8)
    s.tx.armed = true ∧ s.tx.state = .running ∧ s.lastBlockFlag = false ∧ StreamBounds .tx s ∧
    StreamBounds .tx u ∧ queued .tx s = [] ∧ queued .tx u = [] ∧ u.tx.active.h ≠ u.par.filler ∧
    s.tx.cfg.options.getLsbD 3 = false ∧ s.fullDuplex = false ∧
    u.tx.cfg.options.getLsbD 3 = true := by
  refine ⟨by decide, by decide, by decide, bounds_empty .tx, ?_, by decide +kernel,
    by decide +kernel, by decide +kernel, by decide +kernel, by decide, by decide +kernel⟩
  constructor <;> decide +kernel

/-- Full duplex: RX RUNNING, and RX in ERROR. -/
theorem witness_TransmitUnderrun_duplex :
    let s := duplex (dev .running [] .running [])
    let u := duplex (dev .error [] .running [])
    s.tx.armed = true ∧ s.tx.state = .running ∧ s.lastBlockFlag = false ∧ StreamBounds .tx s ∧
    queued .tx s = [] ∧ s.tx.cfg.options.getLsbD 3 = false ∧ s.fullDuplex = true ∧
    faultable s.rx.state = true ∧ u.tx.state = .running ∧ faultable u.rx.state = false ∧
    StreamBounds .tx u ∧ queued .tx u = [] := by
  refine ⟨by decide, by decide, by decide, ?_, by decide +kernel, by decide +kernel, by decide,
    by decide, by decide, by decide, ?_, by decide +kernel⟩ <;> constructor <;> decide +kernel

/-- Half duplex; full duplex with the other stream READY, and with it in ERROR. -/
theorem witness_DmaErrorFaults :
    ((dev .running [1] .ready []).stream .rx).armed = true ∧ (1#8 : BitVec 8) ≠ 0#8 ∧
    (dev .running [1] .ready []).fullDuplex = false ∧
    (duplex (dev .running [1] .ready [])).fullDuplex = true ∧
    faultable ((duplex (dev .running [1] .ready [])).stream .tx).state = true ∧
    faultable ((duplex (dev .running [1] .error [])).stream .tx).state = false := by
  decide +kernel

/-- No stream armed; half duplex; full duplex with both streams armed, with one armed and the other
READY, and with one armed and the other NOT_READY. -/
theorem witness_PeripheralFault :
    (7#3 : BitVec 3) ≠ 0#3 ∧ (dev .ready [] .ready []).rx.armed = false ∧
    (dev .ready [] .ready []).tx.armed = false ∧ (dev .running [] .ready []).rx.armed = true ∧
    (dev .running [] .ready []).fullDuplex = false ∧
    (duplex (dev .running [] .running [])).rx.armed = true ∧
    (duplex (dev .ready [] .stopping [])).tx.armed = true ∧
    (duplex (dev .ready [] .stopping [])).fullDuplex = true ∧
    faultable (duplex (dev .ready [] .stopping [])).rx.state = true ∧
    (duplex (dev .notReady [] .running [])).tx.armed = true ∧
    faultable (duplex (dev .notReady [] .running [])).rx.state = false := by
  decide +kernel

/-- A drain that ends. -/
theorem witness_TransitionTable :
    Inv lastDev ∧ exec (.txDone 0#8) lastDev = .next (after (exec (.txDone 0#8) lastDev)) ∧
    (after (exec (.txDone 0#8) lastDev)).tx.state = .ready :=
  ⟨inv_lastDev, next_of_isNext _ (by decide +kernel), by decide +kernel⟩

theorem witness_InternalStepsFrame :
    runMove .rdGrant busyDev = .next (rdGrant busyDev) ∧ enabled .rdGrant busyDev = true :=
  ⟨rfl, by decide +kernel⟩

theorem witness_ErrorsAndFaultsApart :
    Instr.port .teardown = .a ∧ isNext (exec .teardown busyDev) = true ∧
    Instr.port (.txDone 1#8) = .b ∧ isNext (exec (.txDone 1#8) busyDev) = true := by
  decide +kernel

theorem witness_RefusalsHaveNoSideEffect :
    let s := dev .ready [] .running []
    let i := Instr.triggerStop .both
    exec i s = .next (after (exec i s)) ∧ (after (exec i s)).log ≠ s.log ∧
    (after (exec i s)).log.getLast? = some (answered .cmd .invalidState) :=
  ⟨next_of_isNext _ (by decide +kernel), by decide +kernel, by decide +kernel⟩

theorem witness_CommandAnsweredOnce :
    Instr.port (.triggerStop .both) = .a ∧ route (encode (.triggerStop .both)).cw = .cmd ∧
    isNext (exec (.triggerStop .both) busyDev) = true := by
  decide +kernel

/-- Other than the slot at `head`, and an internal step other than WR_GRANT. -/
theorem witness_SlotFrame :
    isNext (exec (.rxDone 0#8) busyDev) = true ∧ 0 ≠ busyDev.rx.head ∧
    isNext (runMove .wrGrant busyDev) = true ∧ 0 ≠ busyDev.tx.head := by
  decide +kernel

theorem witness_EventFrame :
    Instr.port (.rxDone 0#8) = .b ∧ isNext (exec (.rxDone 0#8) busyDev) = true := by
  decide +kernel

theorem witness_CommandFrame :
    Instr.port (.triggerStop .both) = .a ∧ isNext (exec (.triggerStop .both) busyDev) = true := by
  decide +kernel

theorem witness_HalfDuplexIndependence :
    busyDev.fullDuplex = false ∧ namesOnly .rx (.triggerStop .rx) ∧
    isNext (exec (.triggerStop .rx) busyDev) = true := by
  refine ⟨by decide, rfl, by decide +kernel⟩

/-- `overrun` is set, and cleared by the next START; `underrun` is set, and cleared by the completion
that pops a real Block. -/
theorem witness_LossPolicies :
    let s := offer [.block (hd 0x52)] [] ((dev .running [1, 2] .running []).upd .rx (withOpt 4#8))
    let u := (dev .ready [] .running []).upd .tx (withOpt 8#8)
    let v := offer [.block (hd 0x52)] [] { dev .ready [] .ready [] with overrun := true }
    let w := { fillerDev [1] with underrun := true }
    s.overrun = false ∧ (after (exec (.rxDone 0#8) s)).overrun = true ∧ dropOnOverrun s = true ∧
    u.underrun = false ∧ (after (exec (.txDone 0#8) u)).underrun = true ∧
    repeatOnUnderrun u = true ∧
    v.overrun = true ∧ (after (exec (.triggerStart .rx) v)).overrun = false ∧
    w.underrun = true ∧ (after (exec (.txDone 0#8) w)).underrun = false := by
  decide +kernel

end Sys2Proof.Tests
end

section
/-! The state after reset (10_state.md R44) and the gray-coded crossing (20_memory.md R84, R86). -/

namespace Sys2Proof.Machine

/-! ### The state after reset -/

theorem resetWith_stream (p : Params) (d : Dir) : (State.resetWith p).stream d = Stream.reset := by
  cases d <;> rfl

theorem resetWith_bounds (p : Params) (d : Dir) : StreamBounds d (State.resetWith p) := by
  have hm := flowMod_pos d (State.resetWith p)
  constructor <;> rw [resetWith_stream]
  exacts [Nat.zero_le _, Nat.zero_le _, hm, hm, hm, Memory.wf_nil, fun _ h => nomatch h]

theorem resetWith_occ (p : Params) (d : Dir) : occ d (State.resetWith p) = 0 := by
  rw [occ_eq_zero_iff (resetWith_bounds p d), resetWith_stream]
  rfl

theorem resetWith_flowTrue (p : Params) (d : Dir) :
    flowTrue d (State.resetWith p) = initFlow d (State.resetWith p) := by
  refine flowTrue_of_reset ?_ ?_ <;> rw [resetWith_stream] <;> rfl

theorem Stream.reset_emptied : Emptied Stream.reset Stream.reset := by
  constructor <;> first | rfl | exact .inr rfl

/-- The invariants hold of the state after reset (R41, R44). -/
theorem inv_resetWith {p : Params} (hp : p.ok) : Inv (State.resetWith p) where
  par := hp
  rx := rxInv_emptied rfl Stream.reset_emptied (resetWith_bounds p .rx) hp rfl rfl
  tx := txInv_emptied rfl Stream.reset_emptied (resetWith_bounds p .tx) rfl rfl rfl rfl rfl
  periph := by simp [State.resetWith, Stream.reset]
  duplex := rfl

/-- Settles O9: the registers by evaluation, the derived values by their laws. -/
theorem resetValues : Obligations.ResetValues := by
  unfold Obligations.ResetValues
  rintro p s rfl
  have hstream : ∀ d, ((State.resetWith p).stream d).state = .notReady ∧
      ((State.resetWith p).stream d).head = 0 ∧ ((State.resetWith p).stream d).tail = 0 ∧
      ((State.resetWith p).stream d).giveCnt = 0 ∧ ((State.resetWith p).stream d).takeCnt = 0 ∧
      ((State.resetWith p).stream d).giveView = 0 ∧ occ d (State.resetWith p) = 0 ∧
      ((State.resetWith p).stream d).active = Block.null ∧
      ((State.resetWith p).stream d).armed = false ∧
      ((State.resetWith p).stream d).faultCause = .none ∧
      ((State.resetWith p).stream d).cfg = Cfg.zero := by
    intro d
    rw [resetWith_occ, resetWith_stream]
    exact ⟨rfl, rfl, rfl, rfl, rfl, rfl, rfl, rfl, rfl, rfl, rfl⟩
  exact ⟨hstream, resetWith_flowTrue p .rx, resetWith_flowTrue p .tx, rfl, rfl, rfl, rfl, rfl, rfl,
    rfl, rfl, rfl, rfl, rfl, rfl, rfl⟩

/-- Settles O11: both queues are empty and both streams off. -/
theorem invAtReset : Obligations.InvAtReset := by
  unfold Obligations.InvAtReset
  exact ⟨fun _ => inv_resetWith, inv_resetWith (by decide)⟩

/-! ### The gray-coded crossing -/

theorem getLsbD_grayCode {w : Nat} (b : BitVec w) (i : Nat) :
    (grayCode b).getLsbD i = (b.getLsbD i ^^ b.getLsbD (i + 1)) := by
  simp [grayCode, Nat.add_comm]

/-- Decoding from the top bit down gives back the bits of the coded value (R84). -/
theorem grayDecodeBit_grayCode {w : Nat} (b : BitVec w) {k : Nat} (hk : k < w) :
    grayDecodeBit (grayCode b) k = b.getLsbD (w - 1 - k) := by
  induction k with
  | zero =>
    have htop : b.getLsbD (w - 1 + 1) = false := BitVec.getLsbD_of_ge _ _ (by omega)
    rw [grayDecodeBit, getLsbD_grayCode, htop, Bool.xor_false, Nat.sub_zero]
  | succ k ih =>
    have hnext : w - 1 - (k + 1) + 1 = w - 1 - k := by omega
    rw [grayDecodeBit, ih (by omega), getLsbD_grayCode, hnext, Bool.xor_comm, Bool.xor_assoc,
      Bool.xor_self, Bool.xor_false]

theorem grayDecode_grayCode {w : Nat} (b : BitVec w) : grayDecode (grayCode b) = b := by
  ext i hi
  rw [grayDecode, BitVec.getElem_ofFnLE, grayDecodeBit_grayCode b (by omega),
    BitVec.getLsbD_eq_getElem (by omega)]
  congr 1
  change w - 1 - (w - 1 - i) = i
  omega

/-- The crossing delivers the counter value it was given (R86). -/
theorem cross_of_lt {w n : Nat} (h : n < 2 ^ w) : cross w n = n := by
  rw [cross, grayDecode_grayCode, BitVec.toNat_ofNat, Nat.mod_eq_of_lt h]

end Sys2Proof.Machine
end

section
/-! What each operation can do, said once: the outcomes of the commands and of the events as
equations of the named procedures (41_trigger.md R174 to R180, 42_completion.md R211 to R220,
43_read_write.md R241, R246, 44_configure_status.md R271, R273, R274). -/

namespace Sys2Proof.Machine

/-! ### Push and Pop, in any state -/

theorem push_eq_some {d : Dir} {b : Block} {s t : State} (h : push d b s = some t) :
    t = pushed d b s := by
  unfold push at h
  split at h
  · cases h
  · cases h
    cases d <;> rfl

theorem pop_of_ne {d : Dir} {s : State} (h : (s.stream d).head ≠ (s.stream d).tail) :
    pop d s = some (memRead d (s.stream d).tail s, popped d s) := by
  rw [pop, if_neg h]
  cases d <;> rfl

theorem pop_of_eq {d : Dir} {s : State} (h : (s.stream d).head = (s.stream d).tail) :
    pop d s = none := if_pos h

/-- DropQueue moves `tail` and appends to the history, in any state (R143). -/
theorem dropLoop_tail (d : Dir) (n : Nat) (s : State) :
    ∃ k l, dropLoop d n s = { s.upd d (fun u => { u with tail := k }) with log := l } := by
  induction n generalizing s with
  | zero => exact ⟨(s.stream d).tail, s.log, by cases d <;> rfl⟩
  | succ n ih =>
    by_cases he : (s.stream d).head = (s.stream d).tail
    · refine ⟨(s.stream d).tail, s.log, ?_⟩
      rw [dropLoop, pop_of_eq he]
      cases d <;> rfl
    · obtain ⟨k, l, hk⟩ := ih (emit (.poolFree d (memRead d (s.stream d).tail s).h) (popped d s))
      refine ⟨k, l, ?_⟩
      rw [dropLoop, pop_of_ne he]
      simp only [hk]
      cases d <;> rfl

theorem dropQueue_tail (d : Dir) (s : State) :
    ∃ k l, dropQueue d s = { s.upd d (fun u => { u with tail := k }) with log := l } :=
  dropLoop_tail d _ s

/-! ### The outcomes of the commands -/

/-- STOP, DRAIN, DROP and PREPARE: all targets are in a legal state and each is changed in turn, or
the command is refused (R180). -/
theorem trigger_cases {x : Trigger} {T : List Dir} {f : State → Dir → State} {s t : State}
    (h : (if allLegal x T s then .next (respond .cmd .ok (T.foldl f s))
      else .next (respond .cmd .invalidState s) : Host.Outcome State Fault Refusal) = .next t) :
    ((∀ d ∈ T, legal x (s.stream d).state = true) ∧ t = respond .cmd .ok (T.foldl f s)) ∨
    t = respond .cmd .invalidState s := by
  split at h
  · rename_i hl
    cases h
    exact .inl ⟨List.all_eq_true.1 hl, rfl⟩
  · cases h
    exact .inr rfl

theorem configure_cases {dir : DirSel} {w0 w1 w2 w3 w4 : Word} {s t : State}
    (h : execConfigure dir w0 w1 w2 w3 w4 s = .next t) :
    ((∀ d ∈ addressed dir, configurable (s.stream d).state = true) ∧
      t = respond .cmd .ok
        ((addressed dir).foldl (fun u d => configureOne d (cfgOfWords w0 w1 w2 w3 w4) u) s)) ∨
    ∃ k, t = respond .cmd k s := by
  unfold execConfigure at h
  dsimp only at h
  split at h
  · rename_i hl
    split at h
    · cases h
      exact .inr ⟨_, rfl⟩
    · cases h
      exact .inl ⟨List.all_eq_true.1 hl, rfl⟩
  · cases h
    exact .inr ⟨_, rfl⟩

/-- START: the pools answer for every target and all are armed; one answers BUSY; or it is
refused. -/
theorem start_cases {dir : DirSel} {s t : State} (h : execTriggerStart dir s = .next t) :
    (∃ got s1, allocAll (targets dir s) [] s = (some got, s1) ∧
      (∀ d ∈ targets dir s, (s.stream d).state = .ready) ∧
      t = respond .cmd .ok ((targets dir s).foldl (fun u d => setState d .running u)
        (periphOn (got.foldl (fun u p => arm p.1 p.2 u) s1)))) ∨
    (∃ s1, allocAll (targets dir s) [] s = (none, s1) ∧
      t = respond .cmd .resourceExhausted s1) ∨
    t = respond .cmd .invalidState s := by
  unfold execTriggerStart at h
  dsimp only at h
  split at h
  · rename_i hl
    split at h
    · rename_i s1 he
      cases h
      exact .inr (.inl ⟨s1, he, rfl⟩)
    · rename_i got s1 he
      cases h
      refine .inl ⟨got, s1, he, fun d hd => ?_, rfl⟩
      simpa [legal] using List.all_eq_true.1 hl d hd
  · cases h
    exact .inr (.inr rfl)

theorem status_cases {dir : DirSel} {s t : State} (h : execStatus dir s = .next t) :
    ∃ r : Response, r.ch = .cmd ∧ t = record (.resp r) s := by
  cases dir <;> cases h <;> exact ⟨_, rfl, rfl⟩

theorem read_cases {s t : State} (h : execRead s = .next t) :
    t = respond .rd .invalidState s ∨
    (s.rx.state ≠ .notReady ∧ t = { s with rdTimer := s.rx.cfg.timeout, rdPhase := .wait }) ∨
    t = heldOff .read s := by
  unfold execRead at h
  split at h
  · split at h
    · cases h
      exact .inl rfl
    · rename_i hs
      cases h
      exact .inr (.inl ⟨fun he => hs (.inl he), rfl⟩)
  · cases h
    exact .inr (.inr rfl)

theorem write_cases {blk : Handle} {size : Size} {s t : State}
    (h : execWrite blk size s = .next t) :
    (∃ k, k ≠ .ok ∧ t = respond .wr k s) ∨
    ((s.tx.state = .ready ∨ s.tx.state = .running) ∧
      writeArgsBad (blk.wired s.par.blkW) size s = false ∧
      t = { s with
        wrH := blk.wired s.par.blkW, wrSz := size, wrTimer := s.tx.cfg.timeout,
        wrPhase := .wait }) ∨
    t = heldOff (.write blk size) s := by
  unfold execWrite at h
  split at h
  · split at h
    · cases h
      exact .inl ⟨_, by decide, rfl⟩
    · rename_i hs
      split at h
      · cases h
        exact .inl ⟨_, by decide, rfl⟩
      · rename_i ha
        cases h
        exact .inr (.inl ⟨by tauto, by simpa using ha, rfl⟩)
  · cases h
    exact .inr (.inr rfl)

/-! ### The outcomes of the events -/

theorem rxDone_cases {status : BitVec 8} {s t : State} (h : execRxDone status s = .next t) :
    t = s ∨
    (s.rx.armed = true ∧ t = fault .rx .dmaError s) ∨
    (status = 0#8 ∧ s.rx.armed = true ∧ s.rx.state = .stopping ∧ t = rxDoneStopping s) ∨
    (status = 0#8 ∧ s.rx.armed = true ∧ s.rx.state ≠ .stopping ∧ t = rxDoneRunning s) := by
  unfold execRxDone at h
  split at h
  · cases h
    exact .inl rfl
  · rename_i ha
    have harm : s.rx.armed = true := by simpa using ha
    split at h
    · cases h
      exact .inr (.inl ⟨harm, rfl⟩)
    · rename_i h0
      have hzero : status = 0#8 := by simpa using h0
      split at h <;> cases h
      · exact .inr (.inr (.inl ⟨hzero, harm, by assumption, rfl⟩))
      · exact .inr (.inr (.inr ⟨hzero, harm, by assumption, rfl⟩))

/-- The RX stream with the new Block `nb` handed to its DMA channel (R211 (b)). -/
def reloaded (nb : Handle) (s : State) : State :=
  emit (.dmaReload .rx .periphDr (.block nb) s.rx.cfg.blockSize)
    (setActive .rx { h := nb, sz := s.rx.cfg.blockSize } s)

/-- The RX Block that is complete (R211 (c)). -/
def completed (s : State) : Block := { h := s.rx.active.h, sz := s.rx.cfg.blockSize }

theorem rxDoneRunning_cases (s : State) :
    (∃ s1, ask .rx [] s = (.busy, s1) ∧ rxDoneRunning s = fault .rx .allocFail s1) ∨
    (∃ nb s1, ask .rx [] s = (.block nb, s1) ∧
      rxDoneRunning s = rxDeliver (completed s1) id (reloaded nb s1)) := by
  unfold rxDoneRunning
  split
  · exact .inl ⟨_, by assumption, rfl⟩
  · exact .inr ⟨_, _, by assumption, rfl⟩

/-- All that the delivery of a completed RX Block can do (R211 (c), (d), R212). -/
theorem rxDeliver_cases (b : Block) (k : State → State) (s : State) :
    (push .rx b s = some (pushed .rx b s) ∧ rxDeliver b k s = k (give .rx (pushed .rx b s))) ∨
    (push .rx b s = none ∧ dropOnOverrun s = true ∧
      rxDeliver b k s = k { emit (.poolFree .rx b.h) s with overrun := true }) ∨
    (push .rx b s = none ∧ dropOnOverrun s = false ∧
      rxDeliver b k s = fault .rx .overrun (emit (.poolFree .rx b.h) s)) := by
  unfold rxDeliver
  cases hp : push .rx b s with
  | some u =>
    obtain rfl := push_eq_some hp
    exact .inl ⟨rfl, rfl⟩
  | none =>
    dsimp only
    split
    · exact .inr (.inl ⟨rfl, by assumption, rfl⟩)
    · exact .inr (.inr ⟨rfl, by simpa using ‹¬ dropOnOverrun s = true›, rfl⟩)

theorem txDone_cases {status : BitVec 8} {s t : State} (h : execTxDone status s = .next t) :
    t = s ∨
    (s.tx.armed = true ∧ t = fault .tx .dmaError s) ∨
    (status = 0#8 ∧ s.tx.armed = true ∧ t = txDoneOk s) := by
  unfold execTxDone at h
  split at h
  · cases h
    exact .inl rfl
  · rename_i ha
    have harm : s.tx.armed = true := by simpa using ha
    split at h <;> cases h
    · exact .inr (.inl ⟨harm, rfl⟩)
    · rename_i h0
      exact .inr (.inr ⟨by simpa using h0, harm, rfl⟩)

/-- The TX stream with its sent Block returned (R215). -/
def sent (s : State) : State := setActive .tx Block.null (releaseSent s.tx.active s)

/-- What returning the sent Block writes: the active Block, the filler registers, the history. -/
theorem sent_eq (s : State) :
    sent s = { s with
      tx := { s.tx with active := Block.null },
      fillerSize := (sent s).fillerSize, fillerBuf := (sent s).fillerBuf,
      log := (sent s).log } := by
  unfold sent releaseSent copyFiller
  split
  · split <;> rfl
  · rfl

/-- A successful TX completion: the end of a drain, an empty queue, or the next Block (R215). -/
theorem txDoneOk_cases (s : State) :
    (s.lastBlockFlag = true ∧ txDoneOk s = drainEnd (sent s)) ∨
    (s.lastBlockFlag = false ∧ s.tx.head = s.tx.tail ∧ txDoneOk s = txEmpty (sent s)) ∨
    (s.lastBlockFlag = false ∧ s.tx.head ≠ s.tx.tail ∧
      txDoneOk s = txNext (memRead .tx s.tx.tail s) (popped .tx (sent s))) := by
  have hdef : txDoneOk s = if (sent s).lastBlockFlag = true then drainEnd (sent s) else
      match pop .tx (sent s) with
      | none => txEmpty (sent s)
      | some (b, s2) => txNext b s2 := rfl
  have hlast : (sent s).lastBlockFlag = s.lastBlockFlag := by rw [sent_eq]
  have hhead : (sent s).tx.head = s.tx.head := by rw [sent_eq]
  have htail : (sent s).tx.tail = s.tx.tail := by rw [sent_eq]
  have hread : memRead .tx s.tx.tail (sent s) = memRead .tx s.tx.tail s := by rw [sent_eq]; rfl
  rw [hdef, hlast]
  cases hl : s.lastBlockFlag with
  | true => exact .inl ⟨rfl, rfl⟩
  | false =>
    by_cases he : s.tx.head = s.tx.tail
    · have hpop : pop .tx (sent s) = none := pop_of_eq (by simpa [hhead, htail] using he)
      exact .inr (.inl ⟨rfl, he, by simp [hpop]⟩)
    · have hpop := pop_of_ne (d := .tx) (s := sent s) (by simpa [hhead, htail] using he)
      refine .inr (.inr ⟨rfl, he, ?_⟩)
      simp only [hpop, stream_tx, htail, hread]
      simp

theorem periphFault_cases {flags : BitVec 3} {s t : State}
    (h : execPeriphFault flags s = .next t) :
    t = s ∨ t = emit .clearErrors s ∨
    t = couple .tx (couple .rx (periphOne .tx s.tx.armed
      (periphOne .rx s.rx.armed (emit .clearErrors s)))) := by
  unfold execPeriphFault at h
  dsimp only at h
  split at h
  · cases h
    exact .inl rfl
  · split at h <;> cases h
    · exact .inr (.inl rfl)
    · exact .inr (.inr rfl)

end Sys2Proof.Machine
end

section
/-! What the operations leave unchanged (10_state.md R40): the changes that transfers and faults, RX
events, TX events and commands are confined to, each closed under composition; the slots and the
loss flags. -/

namespace Sys2Proof.Machine

/-! ### Transfers and faults -/

/-- `s` with what arming, disarming, faulting and asking a pool write taken from `t`. -/
abbrev transferPart (t s : State) : State :=
  { s with
    rx := { s.rx with
      state := t.rx.state, active := t.rx.active, armed := t.rx.armed,
      faultCause := t.rx.faultCause },
    tx := { s.tx with
      state := t.tx.state, active := t.tx.active, armed := t.tx.armed,
      faultCause := t.tx.faultCause },
    lastBlockFlag := t.lastBlockFlag, periphEnabled := t.periphEnabled, log := t.log,
    rxPool := t.rxPool, txPool := t.txPool, draws := t.draws }

/-- Nothing changed but what arming, disarming, faulting and asking a pool write: `state`, `active`,
`armed`, `fault_cause`, `last_block_flag`, `periph_enabled`, the history and the pools' answers. -/
def TransferChange (t s : State) : Prop := t = transferPart t s

theorem TransferChange.eq {t s : State} (h : TransferChange t s) : t = transferPart t s := h

theorem TransferChange.refl (s : State) : TransferChange s s := rfl

theorem TransferChange.trans {u t s : State} (h : TransferChange u t) (g : TransferChange t s) :
    TransferChange u s := by
  unfold TransferChange
  conv_lhs => rw [h.eq, g.eq]

theorem TransferChange.par {t s : State} (h : TransferChange t s) : t.par = s.par := by rw [h.eq]

theorem TransferChange.queueSame {t s : State} (h : TransferChange t s) (d : Dir) :
    QueueSame (t.stream d) (s.stream d) := by
  rw [h.eq]
  cases d <;> exact ⟨rfl, rfl, rfl, rfl, rfl, rfl⟩

theorem transfer_record (e : Event) (s : State) : TransferChange (record e s) s := rfl

theorem transfer_setState (d : Dir) (q : StreamState) (s : State) :
    TransferChange (setState d q s) s := by
  cases d <;> rfl

theorem transfer_setActive (d : Dir) (b : Block) (s : State) :
    TransferChange (setActive d b s) s := by
  cases d <;> rfl

theorem transfer_disable (d : Dir) (s : State) : TransferChange (disable d s) s := by
  rw [disable_eq]
  cases d <;> rfl

theorem transfer_faultOne (d : Dir) (c : FaultCause) (s : State) :
    TransferChange (faultOne d c s) s := by
  rw [faultOne_eq]
  cases d <;> rfl

theorem transfer_couple (d : Dir) (s : State) : TransferChange (couple d s) s := by
  unfold couple
  split
  · exact transfer_faultOne d _ s
  · exact .refl s

theorem transfer_fault (d : Dir) (c : FaultCause) (s : State) : TransferChange (fault d c s) s :=
  (transfer_couple _ _).trans (transfer_faultOne d c s)

theorem transfer_periphOne (d : Dir) (v : Bool) (s : State) :
    TransferChange (periphOne d v s) s := by
  unfold periphOne
  split
  · exact transfer_faultOne d _ s
  · exact .refl s

theorem transfer_drainEnd (s : State) : TransferChange (drainEnd s) s :=
  (transfer_disable .tx _).trans (transfer_setState .tx .ready s)

theorem transfer_ask {d : Dir} {held : List Handle} {s t : State} {a : PoolAnswer}
    (h : ask d held s = (a, t)) : TransferChange t s := by
  rcases ask_cases d held s with ⟨b, l, _, he⟩ | ⟨_, he⟩ <;> rw [he] at h <;> cases h
  · cases d <;> rfl
  · rfl

theorem transfer_reloaded (nb : Handle) (s : State) : TransferChange (reloaded nb s) s :=
  (transfer_record _ _).trans (transfer_setActive .rx _ s)

theorem transfer_txSend (b : Block) (s : State) : TransferChange (txSend b s) s :=
  (transfer_setActive .tx b _).trans ((transfer_record _ _).trans (transfer_record _ s))

theorem periphFault_transfer {flags : BitVec 3} {s t : State}
    (h : execPeriphFault flags s = .next t) : TransferChange t s := by
  rcases periphFault_cases h with rfl | rfl | rfl
  · exact .refl _
  · exact transfer_record _ s
  · exact (transfer_couple .tx _).trans ((transfer_couple .rx _).trans
      ((transfer_periphOne .tx _ _).trans ((transfer_periphOne .rx _ _).trans
        (transfer_record _ s))))

/-! ### RX events and TX events -/

/-- `s` with what an RX completion writes taken from `t`. -/
abbrev rxEventPart (t s : State) : State :=
  { s with
    rx := { s.rx with
      state := t.rx.state, active := t.rx.active, armed := t.rx.armed,
      faultCause := t.rx.faultCause, slots := t.rx.slots, head := t.rx.head,
      giveCnt := t.rx.giveCnt },
    tx := { s.tx with
      state := t.tx.state, active := t.tx.active, armed := t.tx.armed,
      faultCause := t.tx.faultCause },
    lastBlockFlag := t.lastBlockFlag, overrun := t.overrun, periphEnabled := t.periphEnabled,
    log := t.log, rxPool := t.rxPool, txPool := t.txPool, draws := t.draws }

/-- Nothing changed but what an RX completion writes: the push to the RX queue and `overrun` besides
a `TransferChange` (R211 to R214). -/
def RxEventChange (t s : State) : Prop := t = rxEventPart t s

theorem RxEventChange.eq {t s : State} (h : RxEventChange t s) : t = rxEventPart t s := h

theorem RxEventChange.of_transfer {t s : State} (h : TransferChange t s) : RxEventChange t s := by
  unfold RxEventChange
  conv_lhs => rw [h.eq]
  rw [h.eq]

theorem RxEventChange.trans {u t s : State} (h : RxEventChange u t) (g : RxEventChange t s) :
    RxEventChange u s := by
  unfold RxEventChange
  conv_lhs => rw [h.eq, g.eq]

theorem rxDeliver_change (b : Block) {k : State → State} (hk : ∀ u, TransferChange (k u) u)
    (s : State) : RxEventChange (rxDeliver b k s) s := by
  rcases rxDeliver_cases b k s with ⟨_, he⟩ | ⟨_, _, he⟩ | ⟨_, _, he⟩ <;> rw [he]
  · have hpush : RxEventChange (give .rx (pushed .rx b s)) s := rfl
    exact (RxEventChange.of_transfer (hk _)).trans hpush
  · have hdrop : RxEventChange { emit (.poolFree .rx b.h) s with overrun := true } s := rfl
    exact (RxEventChange.of_transfer (hk _)).trans hdrop
  · exact .of_transfer ((transfer_fault .rx _ _).trans (transfer_record _ s))

/-- What RX_DONE is confined to (R211 to R214). -/
theorem rxDone_change {status : BitVec 8} {s t : State} (h : execRxDone status s = .next t) :
    RxEventChange t s := by
  rcases rxDone_cases h with rfl | ⟨_, rfl⟩ | ⟨_, _, _, rfl⟩ | ⟨_, _, _, rfl⟩
  · rfl
  · exact .of_transfer (transfer_fault .rx _ s)
  · refine (rxDeliver_change _ (fun u => ?_) _).trans (.of_transfer (transfer_setActive .rx _ s))
    exact (transfer_disable .rx _).trans (transfer_setState .rx .ready u)
  · rcases rxDoneRunning_cases s with ⟨s1, ha, he⟩ | ⟨nb, s1, ha, he⟩ <;> rw [he]
    · exact .of_transfer ((transfer_fault .rx _ s1).trans (transfer_ask ha))
    · exact (rxDeliver_change _ TransferChange.refl _).trans
        (.of_transfer ((transfer_reloaded nb s1).trans (transfer_ask ha)))

/-- `s` with what a TX completion writes taken from `t`. -/
abbrev txEventPart (t s : State) : State :=
  { s with
    rx := { s.rx with
      state := t.rx.state, active := t.rx.active, armed := t.rx.armed,
      faultCause := t.rx.faultCause },
    tx := { s.tx with
      state := t.tx.state, active := t.tx.active, armed := t.tx.armed,
      faultCause := t.tx.faultCause, tail := t.tx.tail, giveCnt := t.tx.giveCnt },
    lastBlockFlag := t.lastBlockFlag, underrun := t.underrun, fillerSize := t.fillerSize,
    fillerBuf := t.fillerBuf, periphEnabled := t.periphEnabled, log := t.log,
    rxPool := t.rxPool, txPool := t.txPool, draws := t.draws }

/-- Nothing changed but what a TX completion writes: the pop from the TX queue, `underrun` and the
filler's registers besides a `TransferChange` (R215 to R219). -/
def TxEventChange (t s : State) : Prop := t = txEventPart t s

theorem TxEventChange.eq {t s : State} (h : TxEventChange t s) : t = txEventPart t s := h

theorem TxEventChange.of_transfer {t s : State} (h : TransferChange t s) : TxEventChange t s := by
  unfold TxEventChange
  conv_lhs => rw [h.eq]
  rw [h.eq]

theorem TxEventChange.trans {u t s : State} (h : TxEventChange u t) (g : TxEventChange t s) :
    TxEventChange u s := by
  unfold TxEventChange
  conv_lhs => rw [h.eq, g.eq]

theorem sent_change (s : State) : TxEventChange (sent s) s := by
  rw [sent_eq]
  rfl

theorem markLast_change (s : State) : TxEventChange (markLast s) s := by
  unfold markLast
  split <;> rfl

theorem txEmpty_change (s : State) : TxEventChange (txEmpty s) s := by
  unfold txEmpty
  split
  · exact .of_transfer (transfer_drainEnd s)
  · split
    · have hflag : TxEventChange { s with underrun := true } s := rfl
      exact (TxEventChange.of_transfer (transfer_txSend _ _)).trans hflag
    · exact .of_transfer (transfer_fault .tx _ s)

theorem txNext_change (b : Block) (s : State) : TxEventChange (txNext b s) s := by
  have hgive : TxEventChange (give .tx { s with underrun := false }) s := rfl
  exact (TxEventChange.of_transfer (transfer_txSend b _)).trans ((markLast_change _).trans hgive)

theorem txDoneOk_change (s : State) : TxEventChange (txDoneOk s) s := by
  rcases txDoneOk_cases s with ⟨_, he⟩ | ⟨_, _, he⟩ | ⟨_, _, he⟩ <;> rw [he]
  · exact (TxEventChange.of_transfer (transfer_drainEnd _)).trans (sent_change s)
  · exact (txEmpty_change _).trans (sent_change s)
  · have hpop : TxEventChange (popped .tx (sent s)) (sent s) := rfl
    exact (txNext_change _ _).trans (hpop.trans (sent_change s))

/-- What TX_DONE is confined to (R215 to R219). -/
theorem txDone_change {status : BitVec 8} {s t : State} (h : execTxDone status s = .next t) :
    TxEventChange t s := by
  rcases txDone_cases h with rfl | ⟨_, rfl⟩ | ⟨_, _, rfl⟩
  · rfl
  · exact .of_transfer (transfer_fault .tx _ s)
  · exact txDoneOk_change s

/-- An event is confined to what an RX event, or to what a TX event may write. -/
theorem event_change {i : Instr} {s t : State} (hb : i.port = .b) (h : exec i s = .next t) :
    RxEventChange t s ∨ TxEventChange t s := by
  cases i with
  | rxDone status => exact .inl (rxDone_change h)
  | txDone status => exact .inr (txDone_change h)
  | periphFault flags => exact .inl (.of_transfer (periphFault_transfer h))
  | _ => cases hb

/-- Settles O57: an event is confined to what one of the streams' events may write, and neither kind
writes what is named here. -/
theorem eventFrame : Obligations.EventFrame := by
  unfold Obligations.EventFrame
  intro i s t hb h
  rcases event_change hb h with hc | hc <;> rw [hc.eq]
  · exact ⟨fun d => by cases d <;> exact ⟨rfl, rfl, rfl⟩, rfl, rfl, rfl, rfl, rfl, rfl, rfl, rfl,
      rfl, rfl, rfl, rfl⟩
  · exact ⟨fun d => by cases d <;> exact ⟨rfl, rfl, rfl⟩, rfl, rfl, rfl, rfl, rfl, rfl, rfl, rfl,
      rfl, rfl, rfl, rfl⟩

/-! ### Commands -/

/-- What a command keeps of a stream: slots and `head`; a counter or the view it at most resets, a
fault cause it at most clears. -/
structure StreamKeeps (a b : Stream) : Prop where
  slots : b.slots = a.slots
  head : b.head = a.head
  give : b.giveCnt = a.giveCnt ∨ b.giveCnt = 0
  take : b.takeCnt = a.takeCnt ∨ b.takeCnt = 0
  view : b.giveView = a.giveView ∨ b.giveView = 0
  cause : b.faultCause = a.faultCause ∨ b.faultCause = .none

theorem StreamKeeps.refl (a : Stream) : StreamKeeps a a :=
  ⟨rfl, rfl, .inl rfl, .inl rfl, .inl rfl, .inl rfl⟩

theorem kept_or_trans {α : Type} {a b c z : α} (h : b = a ∨ b = z) (g : c = b ∨ c = z) :
    c = a ∨ c = z := by
  rcases g with rfl | g
  · exact h
  · exact .inr g

theorem StreamKeeps.trans {a b c : Stream} (h : StreamKeeps a b) (g : StreamKeeps b c) :
    StreamKeeps a c where
  slots := g.slots.trans h.slots
  head := g.head.trans h.head
  give := kept_or_trans h.give g.give
  take := kept_or_trans h.take g.take
  view := kept_or_trans h.view g.view
  cause := kept_or_trans h.cause g.cause

/-- What a command keeps of the Device: the streams as `StreamKeeps` says, the filler, the
parameters; a loss flag it at most clears. -/
structure CommandKeeps (s t : State) : Prop where
  stream : ∀ d, StreamKeeps (s.stream d) (t.stream d)
  overrun : t.overrun = true → s.overrun = true
  underrun : t.underrun = true → s.underrun = true
  fillerSize : t.fillerSize = s.fillerSize
  fillerBuf : t.fillerBuf = s.fillerBuf
  fullDuplex : t.fullDuplex = s.fullDuplex
  par : t.par = s.par

theorem CommandKeeps.refl (s : State) : CommandKeeps s s :=
  ⟨fun _ => .refl _, id, id, rfl, rfl, rfl, rfl⟩

theorem CommandKeeps.trans {s t u : State} (h : CommandKeeps s t) (g : CommandKeeps t u) :
    CommandKeeps s u where
  stream d := (h.stream d).trans (g.stream d)
  overrun ho := h.overrun (g.overrun ho)
  underrun hu := h.underrun (g.underrun hu)
  fillerSize := g.fillerSize.trans h.fillerSize
  fillerBuf := g.fillerBuf.trans h.fillerBuf
  fullDuplex := g.fullDuplex.trans h.fullDuplex
  par := g.par.trans h.par

theorem CommandKeeps.foldl {α : Type} {f : State → α → State} (h : ∀ u a, CommandKeeps u (f u a))
    (l : List α) (s : State) : CommandKeeps s (l.foldl f s) := by
  induction l generalizing s with
  | nil => exact .refl s
  | cons a l ih => exact (h s a).trans (ih _)

/-- A transfer change that brings in no fault cause is one a command may make. -/
theorem CommandKeeps.of_transfer {s t : State} (h : TransferChange t s)
    (hc : ∀ d, (t.stream d).faultCause = (s.stream d).faultCause) : CommandKeeps s t where
  stream d :=
    have hq := h.queueSame d
    ⟨hq.slots, hq.head, .inl hq.give, .inl hq.take, .inl hq.view, .inl (hc d)⟩
  overrun ho := by rw [h.eq] at ho; exact ho
  underrun hu := by rw [h.eq] at hu; exact hu
  fillerSize := by rw [h.eq]
  fillerBuf := by rw [h.eq]
  fullDuplex := by rw [h.eq]
  par := h.par

theorem commandKeeps_record (e : Event) (s : State) : CommandKeeps s (record e s) :=
  .of_transfer (transfer_record e s) fun d => by cases d <;> rfl

theorem commandKeeps_setState (d : Dir) (q : StreamState) (s : State) :
    CommandKeeps s (setState d q s) :=
  .of_transfer (transfer_setState d q s) fun e => by cases d <;> cases e <;> rfl

theorem commandKeeps_disable (d : Dir) (s : State) : CommandKeeps s (disable d s) :=
  .of_transfer (transfer_disable d s) fun e => by rw [disable_eq]; cases d <;> cases e <;> rfl

theorem commandKeeps_ask {d : Dir} {held : List Handle} {s t : State} {a : PoolAnswer}
    (h : ask d held s = (a, t)) : CommandKeeps s t :=
  .of_transfer (transfer_ask h) fun e => by rw [(ask_env h).1.eq]; cases e <;> rfl

theorem commandKeeps_upd (d : Dir) {f : Stream → Stream} (hf : ∀ a, StreamKeeps a (f a))
    (s : State) : CommandKeeps s (s.upd d f) := by
  refine ⟨fun e => ?_, ?_, ?_, ?_, ?_, ?_, ?_⟩
  · by_cases he : e = d
    · subst he
      rw [upd_stream]
      exact hf _
    · rw [upd_stream_ne he]
      exact .refl _
  all_goals simp

theorem commandKeeps_clearCause (d : Dir) (s : State) : CommandKeeps s (setCause d .none s) := by
  refine commandKeeps_upd d (fun _ => ?_) s
  exact ⟨rfl, rfl, .inl rfl, .inl rfl, .inl rfl, .inr rfl⟩

theorem commandKeeps_setCfg (d : Dir) (c : Cfg) (s : State) : CommandKeeps s (setCfg d c s) := by
  refine commandKeeps_upd d (fun _ => ?_) s
  exact ⟨rfl, rfl, .inl rfl, .inl rfl, .inl rfl, .inl rfl⟩

theorem commandKeeps_clearLoss (d : Dir) (s : State) : CommandKeeps s (clearLoss d s) :=
  ⟨fun e => by rw [clearLoss_stream]; exact .refl _, by simp, by simp, by simp, by simp, by simp,
    by simp⟩

theorem commandKeeps_dropQueue (d : Dir) (s : State) : CommandKeeps s (dropQueue d s) := by
  obtain ⟨k, l, he⟩ := dropQueue_tail d s
  have hupd : CommandKeeps s (s.upd d fun u => { u with tail := k }) := by
    refine commandKeeps_upd d (fun _ => ?_) s
    exact ⟨rfl, rfl, .inl rfl, .inl rfl, .inl rfl, .inl rfl⟩
  have hlog : CommandKeeps (s.upd d fun u => { u with tail := k }) (dropQueue d s) := by
    rw [he]
    exact .of_transfer rfl fun e => by cases e <;> rfl
  exact hupd.trans hlog

theorem commandKeeps_flowReset (d : Dir) (s : State) : CommandKeeps s (flowReset d s) := by
  cases d
  · rw [flowReset_rx]
    exact ⟨fun e => by
      cases e <;> exact ⟨rfl, rfl, by simp, by simp, by simp, .inl rfl⟩, id, id, rfl, rfl, rfl, rfl⟩
  · rw [flowReset_tx]
    exact ⟨fun e => by
      cases e <;> exact ⟨rfl, rfl, by simp, by simp, by simp, .inl rfl⟩, id, id, rfl, rfl, rfl, rfl⟩

theorem commandKeeps_arm (d : Dir) (h : Handle) (s : State) : CommandKeeps s (arm d h s) := by
  rw [arm_eq]
  refine ⟨fun e => ?_, by simp, by simp, by simp, by simp, by simp, by simp⟩
  cases d <;> cases e <;> exact ⟨rfl, rfl, .inl rfl, .inl rfl, .inl rfl, .inl rfl⟩

theorem commandKeeps_periphOn (s : State) : CommandKeeps s (periphOn s) := by
  refine .of_transfer ?_ fun d => ?_ <;> unfold periphOn <;> split
  · rfl
  · rfl
  · cases d <;> rfl
  · rfl

theorem commandKeeps_allocAll (T : List Dir) (got : List (Dir × Handle)) (s : State) :
    CommandKeeps s (allocAll T got s).2 := by
  induction T generalizing got s with
  | nil => exact .refl s
  | cons d T ih =>
    unfold allocAll
    split <;> rename_i ha
    · exact (commandKeeps_ask ha).trans (.foldl (fun u p => commandKeeps_record _ u) got _)
    · exact (commandKeeps_ask ha).trans (ih _ _)

theorem commandKeeps_stopStream (d : Dir) (s : State) : CommandKeeps s (stopStream d s) :=
  (commandKeeps_disable d s).trans <| (commandKeeps_dropQueue d _).trans <|
    (commandKeeps_flowReset d _).trans <| (commandKeeps_clearCause d _).trans <|
    commandKeeps_setState d _ _

theorem commandKeeps_prepareOne (d : Dir) (s : State) : CommandKeeps s (prepareOne d s) :=
  (commandKeeps_dropQueue d s).trans <| (commandKeeps_flowReset d _).trans <|
    (commandKeeps_clearCause d _).trans <| (commandKeeps_clearLoss d _).trans <|
    commandKeeps_setState d _ _

theorem commandKeeps_configureOne (d : Dir) (c : Cfg) (s : State) :
    CommandKeeps s (configureOne d c s) := by
  have hstore : ∀ u, CommandKeeps u (storeCfg d c u) := by
    intro u
    unfold storeCfg
    split <;> exact (commandKeeps_setCfg d _ u).trans (commandKeeps_setState d _ _)
  exact (commandKeeps_dropQueue d s).trans <| (commandKeeps_flowReset d _).trans <|
    (commandKeeps_clearCause d _).trans <| (commandKeeps_clearLoss d _).trans (hstore _)

theorem commandKeeps_teardownOne (d : Dir) (s : State) : CommandKeeps s (teardownOne d s) := by
  have hoff : ∀ u, CommandKeeps u (setState d .notReady (setCfg d Cfg.zero (setCause d .none u))) :=
    fun u => (commandKeeps_clearCause d u).trans <| (commandKeeps_setCfg d _ _).trans <|
      commandKeeps_setState d _ _
  unfold teardownOne
  dsimp only
  split
  · exact (commandKeeps_disable d s).trans <| (commandKeeps_dropQueue d _).trans <|
      (commandKeeps_flowReset d _).trans (hoff _)
  · exact hoff s

theorem commandKeeps_drainOne (d : Dir) (s : State) : CommandKeeps s (drainOne d s) := by
  cases d
  · exact commandKeeps_stopStream .rx s
  · have habort : CommandKeeps s (abortWrite s) := by
      rw [abortWrite_eq]
      exact ⟨fun e => by cases e <;> exact .refl _, id, id, rfl, rfl, rfl, rfl⟩
    refine habort.trans ((commandKeeps_setState .tx .stopping _).trans ?_)
    exact ⟨fun e => by cases e <;> exact .refl _, id, id, rfl, rfl, rfl, rfl⟩

theorem trigger_commandKeeps {x : Trigger} {T : List Dir} {f : State → Dir → State} {s t : State}
    (hf : ∀ u d, CommandKeeps u (f u d))
    (h : (if allLegal x T s then .next (respond .cmd .ok (T.foldl f s))
      else .next (respond .cmd .invalidState s) : Host.Outcome State Fault Refusal) = .next t) :
    CommandKeeps s t := by
  rcases trigger_cases h with ⟨_, rfl⟩ | rfl
  · exact (CommandKeeps.foldl hf T s).trans (commandKeeps_record _ _)
  · exact commandKeeps_record _ s

theorem start_commandKeeps {dir : DirSel} {s t : State} (h : execTriggerStart dir s = .next t) :
    CommandKeeps s t := by
  have halloc := commandKeeps_allocAll (targets dir s) [] s
  rcases start_cases h with ⟨got, s1, ha, _, rfl⟩ | ⟨s1, ha, rfl⟩ | rfl
  · rw [ha] at halloc
    exact halloc.trans <|
      (CommandKeeps.foldl (fun u p => commandKeeps_arm p.1 p.2 u) got s1).trans <|
      (commandKeeps_periphOn _).trans <|
      (CommandKeeps.foldl (fun u d => commandKeeps_setState d .running u) _ _).trans <|
      commandKeeps_record _ _
  · rw [ha] at halloc
    exact halloc.trans (commandKeeps_record _ _)
  · exact commandKeeps_record _ s

/-- A command other than TEARDOWN keeps what `CommandKeeps` says. -/
theorem command_keeps {i : Instr} {s t : State} (ha : i.port = .a) (hi : i ≠ .teardown)
    (h : exec i s = .next t) : CommandKeeps s t := by
  have hsame : ∀ {u : State}, (∀ d, u.stream d = s.stream d) → u.overrun = s.overrun →
      u.underrun = s.underrun → u.fillerSize = s.fillerSize → u.fillerBuf = s.fillerBuf →
      u.fullDuplex = s.fullDuplex → u.par = s.par → CommandKeeps s u := by
    intro u hs ho hu h1 h2 h3 h4
    exact ⟨fun d => by rw [hs]; exact .refl _, by simp [ho], by simp [hu], h1, h2, h3, h4⟩
  cases i with
  | configure dir w0 w1 w2 w3 w4 =>
    rcases configure_cases h with ⟨_, rfl⟩ | ⟨k, rfl⟩
    · exact (CommandKeeps.foldl (fun u d => commandKeeps_configureOne d _ u) _ s).trans
        (commandKeeps_record _ _)
    · exact commandKeeps_record _ s
  | triggerStart dir => exact start_commandKeeps h
  | triggerStop dir => exact trigger_commandKeeps (fun u d => commandKeeps_stopStream d u) h
  | triggerDrain dir => exact trigger_commandKeeps (fun u d => commandKeeps_drainOne d u) h
  | triggerDrop dir => exact trigger_commandKeeps (fun u d => commandKeeps_stopStream d u) h
  | triggerPrepare dir => exact trigger_commandKeeps (fun u d => commandKeeps_prepareOne d u) h
  | status dir =>
    obtain ⟨r, _, rfl⟩ := status_cases h
    exact commandKeeps_record _ s
  | read =>
    rcases read_cases h with rfl | ⟨_, rfl⟩ | rfl
    · exact commandKeeps_record _ s
    · exact hsame (fun d => by cases d <;> rfl) rfl rfl rfl rfl rfl rfl
    · exact hsame (fun d => by cases d <;> rfl) rfl rfl rfl rfl rfl rfl
  | write blk size =>
    rcases write_cases h with ⟨k, _, rfl⟩ | ⟨_, _, rfl⟩ | rfl
    · exact commandKeeps_record _ s
    · exact hsame (fun d => by cases d <;> rfl) rfl rfl rfl rfl rfl rfl
    · exact hsame (fun d => by cases d <;> rfl) rfl rfl rfl rfl rfl rfl
  | teardown => exact absurd rfl hi
  | rxDone _ => cases ha
  | txDone _ => cases ha
  | periphFault _ => cases ha

/-- TEARDOWN: both streams in turn, then the Device's flags and `filler_size` (R274). -/
theorem teardown_eq {s t : State} (h : exec .teardown s = .next t) :
    ∃ u, u = teardownOne .tx (teardownOne .rx s) ∧ CommandKeeps s u ∧
      t = respond .cmd .ok { u with overrun := false, underrun := false, fillerSize := 0 } := by
  cases h
  exact ⟨_, rfl, (commandKeeps_teardownOne .rx s).trans (commandKeeps_teardownOne .tx _), rfl⟩

/-- A command keeps what `StreamKeeps` says of each stream. -/
theorem command_streamKeeps {i : Instr} {s t : State} (ha : i.port = .a) (h : exec i s = .next t)
    (d : Dir) : StreamKeeps (s.stream d) (t.stream d) := by
  by_cases hi : i = .teardown
  · subst hi
    obtain ⟨u, _, hu, rfl⟩ := teardown_eq h
    cases d
    · exact hu.stream .rx
    · exact hu.stream .tx
  · exact (command_keeps ha hi h).stream d

/-- Settles O58: by the frame of the procedures a command is made of; TEARDOWN clears the Device's
flags and `filler_size` besides. -/
theorem commandFrame : Obligations.CommandFrame := by
  unfold Obligations.CommandFrame
  intro i s t ha h
  have hstream : ∀ d, (t.stream d).slots = (s.stream d).slots ∧
      (t.stream d).head = (s.stream d).head ∧
      ((t.stream d).giveCnt = (s.stream d).giveCnt ∨ (t.stream d).giveCnt = 0) ∧
      ((t.stream d).takeCnt = (s.stream d).takeCnt ∨ (t.stream d).takeCnt = 0) ∧
      ((t.stream d).giveView = (s.stream d).giveView ∨ (t.stream d).giveView = 0) := fun d =>
    have hk := command_streamKeeps ha h d
    ⟨hk.slots, hk.head, hk.give, hk.take, hk.view⟩
  refine ⟨hstream, ?_⟩
  by_cases hi : i = .teardown
  · subst hi
    obtain ⟨u, _, hu, rfl⟩ := teardown_eq h
    exact ⟨.inr ⟨rfl, rfl⟩, nofun, nofun, hu.fillerBuf, hu.fullDuplex, hu.par⟩
  · have hk := command_keeps ha hi h
    exact ⟨.inl hk.fillerSize, hk.overrun, hk.underrun, hk.fillerBuf, hk.fullDuplex, hk.par⟩

end Sys2Proof.Machine
end

section
/-! Which slots are written (20_memory.md R72), and what becomes of the loss flags and the loss
causes (10_state.md R25, R26, 60_exceptions.md R298). -/

namespace Sys2Proof.Machine

/-! ### The outcomes of the grants -/

theorem rdGrant_of_ne {s : State} (h : s.rx.head ≠ s.rx.tail) :
    rdGrant s = answerBlock (memRead .rx s.rx.tail s)
      (appTakes (memRead .rx s.rx.tail s).h (rdIdle (popped .rx (take .rx s)))) := by
  have hpop : pop .rx (take .rx s) = some (memRead .rx s.rx.tail s, popped .rx (take .rx s)) :=
    pop_of_ne (d := .rx) (s := take .rx s) h
  rw [rdGrant, hpop]

theorem rdGrant_of_eq {s : State} (h : s.rx.head = s.rx.tail) :
    rdGrant s = respond .rd .queueEmpty (rdIdle (take .rx s)) := by
  have hpop : pop .rx (take .rx s) = none := pop_of_eq (d := .rx) (s := take .rx s) h
  rw [rdGrant, hpop]

/-- The Block a waiting WRITE holds. -/
def latchedBlock (s : State) : Block := { h := s.wrH, sz := s.wrSz }

theorem wrGrant_cases (s : State) :
    (push .tx (latchedBlock s) (take .tx s) = some (pushed .tx (latchedBlock s) (take .tx s)) ∧
      wrGrant s = respond .wr .ok
        (wrIdle (appGives s.wrH (pushed .tx (latchedBlock s) (take .tx s))))) ∨
    (push .tx (latchedBlock s) (take .tx s) = none ∧
      wrGrant s = respond .wr .resourceExhausted (wrIdle (take .tx s))) := by
  have hdef : wrGrant s = match push .tx (latchedBlock s) (take .tx s) with
      | some s1 => respond .wr .ok (wrIdle (appGives s.wrH s1))
      | none => respond .wr .resourceExhausted (wrIdle (take .tx s)) := rfl
  rw [hdef]
  cases hp : push .tx (latchedBlock s) (take .tx s) with
  | none => exact .inr ⟨rfl, rfl⟩
  | some u =>
    obtain rfl := push_eq_some hp
    exact .inl ⟨rfl, rfl⟩

/-! ### Slots -/

theorem memRead_of_slots {d : Dir} {s t : State}
    (h : (t.stream d).slots = (s.stream d).slots) (k : Nat) : memRead d k t = memRead d k s := by
  rw [memRead, memRead, h]

theorem memRead_pushed {d : Dir} {k : Nat} {s : State} (hk : k ≠ (s.stream d).head) (b : Block) :
    memRead d k (pushed d b s) = memRead d k s := by
  simp only [memRead, pushed, upd_stream]
  exact Memory.read_write_other _ hk b

theorem rxDeliver_memRead {b : Block} {f : State → State} (hf : ∀ u, TransferChange (f u) u)
    {k : Nat} {s : State} (hk : k ≠ s.rx.head) :
    memRead .rx k (rxDeliver b f s) = memRead .rx k s := by
  rcases rxDeliver_cases b f s with ⟨_, he⟩ | ⟨_, _, he⟩ | ⟨_, _, he⟩ <;> rw [he]
  · exact (memRead_of_slots ((hf _).queueSame .rx).slots k).trans
      (memRead_pushed (d := .rx) hk b)
  · exact memRead_of_slots ((hf _).queueSame .rx).slots k
  · exact memRead_of_slots
      (((transfer_fault .rx _ _).trans (transfer_record _ s)).queueSame .rx).slots k

/-- RX_DONE writes the slot at `head` at most (R211 (d)). -/
theorem rxDone_memRead {status : BitVec 8} {s t : State} (h : execRxDone status s = .next t)
    {k : Nat} (hk : k ≠ s.rx.head) : memRead .rx k t = memRead .rx k s := by
  have hdeliver : ∀ {u : State} (b : Block) {f : State → State}, (∀ v, TransferChange (f v) v) →
      TransferChange u s → memRead .rx k (rxDeliver b f u) = memRead .rx k s := by
    intro u b f hf hu
    have hhead : u.rx.head = s.rx.head := (hu.queueSame .rx).head
    exact (rxDeliver_memRead hf (by rwa [hhead])).trans
      (memRead_of_slots (hu.queueSame .rx).slots k)
  rcases rxDone_cases h with rfl | ⟨_, rfl⟩ | ⟨_, _, _, rfl⟩ | ⟨_, _, _, rfl⟩
  · rfl
  · exact memRead_of_slots ((transfer_fault .rx _ s).queueSame .rx).slots k
  · exact hdeliver _ (fun u => (transfer_disable .rx _).trans (transfer_setState .rx .ready u))
      (transfer_setActive .rx _ s)
  · rcases rxDoneRunning_cases s with ⟨s1, ha, he⟩ | ⟨nb, s1, ha, he⟩ <;> rw [he]
    · exact memRead_of_slots
        (((transfer_fault .rx _ s1).trans (transfer_ask ha)).queueSame .rx).slots k
    · exact hdeliver _ TransferChange.refl ((transfer_reloaded nb s1).trans (transfer_ask ha))

theorem exec_memRead {i : Instr} {s t : State} (h : exec i s = .next t) {d : Dir} {k : Nat}
    (hk : ¬ ((∃ status, i = .rxDone status) ∧ d = .rx ∧ k = s.rx.head)) :
    memRead d k t = memRead d k s := by
  cases hp : i.port with
  | a => exact memRead_of_slots (command_streamKeeps hp h d).slots k
  | b =>
    cases i with
    | rxDone status =>
      cases d with
      | rx => exact rxDone_memRead h fun he => hk ⟨⟨status, rfl⟩, rfl, he⟩
      | tx => exact memRead_of_slots (by rw [(rxDone_change h).eq]; rfl) k
    | txDone status =>
      refine memRead_of_slots ?_ k
      rw [(txDone_change h).eq]
      cases d <;> rfl
    | periphFault flags => exact memRead_of_slots ((periphFault_transfer h).queueSame d).slots k
    | _ => cases hp

theorem rdGrant_memRead (d : Dir) (k : Nat) (s : State) :
    memRead d k (rdGrant s) = memRead d k s := by
  refine memRead_of_slots ?_ k
  by_cases he : s.rx.head = s.rx.tail
  · rw [rdGrant_of_eq he]
    cases d <;> simp [respond, rdIdle, take]
  · rw [rdGrant_of_ne he]
    cases d <;> simp [answerBlock, appTakes, rdIdle, popped, take]

/-- WR_GRANT writes the slot of TX at `head` at most (R247). -/
theorem wrGrant_memRead {d : Dir} {k : Nat} {s : State} (hk : ¬ (d = .tx ∧ k = s.tx.head)) :
    memRead d k (wrGrant s) = memRead d k s := by
  have htake : memRead d k (take .tx s) = memRead d k s :=
    memRead_of_slots (by cases d <;> simp [take]) k
  rcases wrGrant_cases s with ⟨_, he⟩ | ⟨_, he⟩ <;> rw [he, ← htake]
  · cases d with
    | rx => exact memRead_of_slots (by simp [respond, wrIdle, appGives, pushed]) k
    | tx =>
      have hhead : k ≠ ((take .tx s).stream .tx).head := fun h => hk ⟨rfl, by simpa [take] using h⟩
      rw [← memRead_pushed hhead (latchedBlock s)]
      exact memRead_of_slots (by simp [respond, wrIdle, appGives]) k
  · exact memRead_of_slots (by cases d <;> simp [respond, wrIdle]) k

/-- Settles O56: only Push writes a slot, and only RX_DONE and WR_GRANT push. -/
theorem slotFrame : Obligations.SlotFrame := by
  unfold Obligations.SlotFrame
  refine fun s t d k => ⟨fun i h hk => exec_memRead h hk, fun m hm h hk => ?_⟩
  rcases hm with rfl | rfl | rfl | rfl | rfl | ⟨e, j, rfl⟩ <;> cases h
  · exact rdGrant_memRead d k s
  · exact memRead_of_slots (by cases d <;> rfl) k
  · exact wrGrant_memRead fun hd => hk ⟨rfl, hd⟩
  · exact memRead_of_slots (by cases d <;> rfl) k
  · exact memRead_of_slots (by cases d <;> rfl) k
  · exact memRead_of_slots (by cases d <;> cases e <;> rfl) k

/-! ### Loss flags -/

/-- Neither loss flag changed. -/
def LossSame (s t : State) : Prop := t.overrun = s.overrun ∧ t.underrun = s.underrun

theorem LossSame.trans {s t u : State} (h : LossSame s t) (g : LossSame t u) : LossSame s u :=
  ⟨g.1.trans h.1, g.2.trans h.2⟩

theorem LossSame.foldl {α : Type} {f : State → α → State} (h : ∀ u a, LossSame u (f u a))
    (l : List α) (s : State) : LossSame s (l.foldl f s) := by
  induction l generalizing s with
  | nil => exact ⟨rfl, rfl⟩
  | cons a l ih => exact (h s a).trans (ih _)

theorem LossSame.of_transfer {s t : State} (h : TransferChange t s) : LossSame s t := by
  rw [h.eq]
  exact ⟨rfl, rfl⟩

theorem stopStream_lossSame (d : Dir) (s : State) : LossSame s (stopStream d s) := by
  have hdrop : ∀ u, LossSame u (dropQueue d u) := by
    intro u
    obtain ⟨k, l, he⟩ := dropQueue_tail d u
    rw [he]
    cases d <;> exact ⟨rfl, rfl⟩
  have hflow : ∀ u, LossSame u (flowReset d u) := by
    intro u
    cases d
    · rw [flowReset_rx]
      exact ⟨rfl, rfl⟩
    · rw [flowReset_tx]
      exact ⟨rfl, rfl⟩
  have hready : ∀ u, LossSame u (setState d .ready (setCause d .none u)) := by
    intro u
    cases d <;> exact ⟨rfl, rfl⟩
  exact (LossSame.of_transfer (transfer_disable d s)).trans <|
    (hdrop _).trans <| (hflow _).trans (hready _)

theorem drainOne_lossSame (d : Dir) (s : State) : LossSame s (drainOne d s) := by
  cases d
  · exact stopStream_lossSame .rx s
  · have habort : LossSame s (abortWrite s) := by
      rw [abortWrite_eq]
      exact ⟨rfl, rfl⟩
    exact habort.trans ⟨rfl, rfl⟩

theorem trigger_lossSame {x : Trigger} {T : List Dir} {f : State → Dir → State} {s t : State}
    (hf : ∀ u d, LossSame u (f u d))
    (h : (if allLegal x T s then .next (respond .cmd .ok (T.foldl f s))
      else .next (respond .cmd .invalidState s) : Host.Outcome State Fault Refusal) = .next t) :
    LossSame s t := by
  rcases trigger_cases h with ⟨_, rfl⟩ | rfl
  · exact (LossSame.foldl hf T s).trans ⟨rfl, rfl⟩
  · exact ⟨rfl, rfl⟩

/-- A command other than START, PREPARE, CONFIGURE and TEARDOWN leaves both loss flags. -/
theorem command_lossSame {i : Instr} {s t : State} (ha : i.port = .a) (hi : ¬ clearsLoss i)
    (h : exec i s = .next t) : LossSame s t := by
  cases i with
  | configure => exact absurd trivial hi
  | triggerStart => exact absurd trivial hi
  | triggerStop dir => exact trigger_lossSame (fun u d => stopStream_lossSame d u) h
  | triggerDrain dir => exact trigger_lossSame (fun u d => drainOne_lossSame d u) h
  | triggerDrop dir => exact trigger_lossSame (fun u d => stopStream_lossSame d u) h
  | triggerPrepare => exact absurd trivial hi
  | status dir =>
    obtain ⟨r, _, rfl⟩ := status_cases h
    exact ⟨rfl, rfl⟩
  | read => rcases read_cases h with rfl | ⟨_, rfl⟩ | rfl <;> exact ⟨rfl, rfl⟩
  | write blk size =>
    rcases write_cases h with ⟨k, _, rfl⟩ | ⟨_, _, rfl⟩ | rfl <;> exact ⟨rfl, rfl⟩
  | teardown => exact absurd trivial hi
  | rxDone _ => cases ha
  | txDone _ => cases ha
  | periphFault _ => cases ha

/-- No command sets a loss flag. -/
theorem command_loss_falls {i : Instr} {s t : State} (ha : i.port = .a) (h : exec i s = .next t) :
    (t.overrun = true → s.overrun = true) ∧ (t.underrun = true → s.underrun = true) := by
  by_cases hi : i = .teardown
  · subst hi
    obtain ⟨u, _, _, rfl⟩ := teardown_eq h
    exact ⟨nofun, nofun⟩
  · have hk := command_keeps ha hi h
    exact ⟨hk.overrun, hk.underrun⟩

theorem TransferChange.dropOnOverrun {s t : State} (h : TransferChange t s) :
    dropOnOverrun t = dropOnOverrun s := by
  rw [h.eq]
  rfl

theorem rxDeliver_overrun {b : Block} {f : State → State} (hf : ∀ u, TransferChange (f u) u)
    (s : State) : (rxDeliver b f s).overrun = s.overrun ∨
      ((rxDeliver b f s).overrun = true ∧ dropOnOverrun s = true) := by
  rcases rxDeliver_cases b f s with ⟨_, he⟩ | ⟨_, hd, he⟩ | ⟨_, _, he⟩ <;> rw [he]
  · exact .inl (LossSame.of_transfer (hf _)).1
  · exact .inr ⟨(LossSame.of_transfer (hf _)).1, hd⟩
  · exact .inl (LossSame.of_transfer ((transfer_fault .rx _ _).trans (transfer_record _ s))).1

/-- RX_DONE sets `overrun` under the drop policy only, and never clears it (R25, R212). -/
theorem rxDone_overrun {status : BitVec 8} {s t : State} (h : execRxDone status s = .next t) :
    t.overrun = s.overrun ∨ (status = 0#8 ∧ t.overrun = true ∧ dropOnOverrun s = true) := by
  have hdeliver : ∀ {u : State} (b : Block) {f : State → State}, (∀ v, TransferChange (f v) v) →
      TransferChange u s → (rxDeliver b f u).overrun = s.overrun ∨
        ((rxDeliver b f u).overrun = true ∧ dropOnOverrun s = true) := by
    intro u b f hf hu
    have hsame : u.overrun = s.overrun := (LossSame.of_transfer hu).1
    rw [← hsame, ← hu.dropOnOverrun]
    exact rxDeliver_overrun hf u
  rcases rxDone_cases h with rfl | ⟨_, rfl⟩ | ⟨h0, _, _, rfl⟩ | ⟨h0, _, _, rfl⟩
  · exact .inl rfl
  · exact .inl (LossSame.of_transfer (transfer_fault .rx _ s)).1
  · refine (hdeliver _ (fun u => ?_) (transfer_setActive .rx _ s)).imp_right fun hr => ⟨h0, hr⟩
    exact (transfer_disable .rx _).trans (transfer_setState .rx .ready u)
  · rcases rxDoneRunning_cases s with ⟨s1, ha, he⟩ | ⟨nb, s1, ha, he⟩ <;> rw [he]
    · exact .inl (LossSame.of_transfer ((transfer_fault .rx _ s1).trans (transfer_ask ha))).1
    · exact (hdeliver _ TransferChange.refl
        ((transfer_reloaded nb s1).trans (transfer_ask ha))).imp_right fun hr => ⟨h0, hr⟩

theorem sent_underrun (s : State) : (sent s).underrun = s.underrun := by rw [sent_eq]

theorem sent_repeatOnUnderrun (s : State) : repeatOnUnderrun (sent s) = repeatOnUnderrun s := by
  rw [sent_eq]
  rfl

theorem markLast_underrun (s : State) : (markLast s).underrun = s.underrun := by
  unfold markLast
  split <;> rfl

theorem txEmpty_underrun (s : State) : (txEmpty s).underrun = s.underrun ∨
    ((txEmpty s).underrun = true ∧ repeatOnUnderrun s = true) := by
  unfold txEmpty
  split
  · exact .inl (LossSame.of_transfer (transfer_drainEnd s)).2
  · split
    · exact .inr ⟨rfl, by assumption⟩
    · exact .inl (LossSame.of_transfer (transfer_fault .tx _ s)).2

theorem txNext_underrun (b : Block) (s : State) : (txNext b s).underrun = false :=
  (LossSame.of_transfer (transfer_txSend b _)).2.trans (markLast_underrun _)

/-- TX_DONE sets `underrun` under the repeat policy only, and clears it only when it finds a real
Block queued (R26, R215, R217). -/
theorem txDone_underrun {status : BitVec 8} {s t : State} (h : execTxDone status s = .next t) :
    t.underrun = s.underrun ∨
    (status = 0#8 ∧ t.underrun = true ∧ repeatOnUnderrun s = true) ∨
    (status = 0#8 ∧ s.tx.armed = true ∧ s.lastBlockFlag = false ∧ s.tx.head ≠ s.tx.tail ∧
      t.underrun = false) := by
  rcases txDone_cases h with rfl | ⟨_, rfl⟩ | ⟨h0, harm, rfl⟩
  · exact .inl rfl
  · exact .inl (LossSame.of_transfer (transfer_fault .tx _ s)).2
  · rcases txDoneOk_cases s with ⟨_, he⟩ | ⟨_, _, he⟩ | ⟨hl, hne, he⟩ <;> rw [he]
    · exact .inl ((LossSame.of_transfer (transfer_drainEnd _)).2.trans (sent_underrun s))
    · have hempty := txEmpty_underrun (sent s)
      rw [sent_underrun, sent_repeatOnUnderrun] at hempty
      exact hempty.imp_right fun hr => .inl ⟨h0, hr⟩
    · exact .inr (.inr ⟨h0, harm, hl, hne, txNext_underrun _ _⟩)

/-! ### Loss causes -/

/-- The fault cause that a loss on stream `d` brings in under the default policy (R293). -/
def lossCause : Dir → FaultCause
  | .rx => .overrun
  | .tx => .underrun

/-- The loss cause of stream `d` did not come in. -/
def NoNewLoss (d : Dir) (s t : State) : Prop :=
  (t.stream d).faultCause = lossCause d → (s.stream d).faultCause = lossCause d

theorem NoNewLoss.trans {d : Dir} {s t u : State} (h : NoNewLoss d s t) (g : NoNewLoss d t u) :
    NoNewLoss d s u := fun hu => h (g hu)

theorem NoNewLoss.of_eq {d : Dir} {s t : State}
    (h : (t.stream d).faultCause = (s.stream d).faultCause) : NoNewLoss d s t :=
  fun ht => h.symm.trans ht

theorem faultOne_cause (d : Dir) (c : FaultCause) (s : State) :
    ((faultOne d c s).stream d).faultCause = c := by
  rw [faultOne_eq]
  cases d <;> rfl

theorem faultOne_stream_ne {d e : Dir} (h : e ≠ d) (c : FaultCause) (s : State) :
    (faultOne d c s).stream e = s.stream e := by
  rw [faultOne_eq]
  cases d <;> cases e <;> first | rfl | exact absurd rfl h

theorem faultOne_noNewLoss {d e : Dir} {c : FaultCause} (h : e = d → c ≠ lossCause d)
    (s : State) : NoNewLoss d s (faultOne e c s) := by
  by_cases hd : e = d
  · subst hd
    intro hc
    exact absurd ((faultOne_cause e c s).symm.trans hc) (h rfl)
  · exact .of_eq (by rw [faultOne_stream_ne (Ne.symm hd)])

theorem lossCause_ne (d : Dir) {c : FaultCause} (h1 : c ≠ .overrun) (h2 : c ≠ .underrun) :
    c ≠ lossCause d := by
  cases d <;> assumption

theorem couple_noNewLoss (d e : Dir) (s : State) : NoNewLoss d s (couple e s) := by
  unfold couple
  split
  · exact faultOne_noNewLoss (fun _ => lossCause_ne d (by decide) (by decide)) s
  · exact id

theorem fault_noNewLoss {d e : Dir} {c : FaultCause} (h : e = d → c ≠ lossCause d) (s : State) :
    NoNewLoss d s (fault e c s) :=
  (faultOne_noNewLoss h s).trans (couple_noNewLoss d _ _)

theorem periphOne_noNewLoss (d e : Dir) (v : Bool) (s : State) :
    NoNewLoss d s (periphOne e v s) := by
  unfold periphOne
  split
  · exact faultOne_noNewLoss (fun _ => lossCause_ne d (by decide) (by decide)) s
  · exact id

theorem rxDeliver_noNewLoss {d : Dir} {b : Block} {f : State → State}
    (hf : ∀ u, NoNewLoss d u (f u)) {s : State} (hd : d = .rx → dropOnOverrun s = true) :
    NoNewLoss d s (rxDeliver b f s) := by
  rcases rxDeliver_cases b f s with ⟨_, he⟩ | ⟨_, _, he⟩ | ⟨_, hn, he⟩ <;> rw [he]
  · have hpush : NoNewLoss d s (give .rx (pushed .rx b s)) := .of_eq (by cases d <;> rfl)
    exact hpush.trans (hf _)
  · have hdrop : NoNewLoss d s { emit (.poolFree .rx b.h) s with overrun := true } :=
      .of_eq (by cases d <;> rfl)
    exact hdrop.trans (hf _)
  · have hemit : NoNewLoss d s (emit (.poolFree .rx b.h) s) := .of_eq (by cases d <;> rfl)
    refine hemit.trans (fault_noNewLoss (fun hrx => ?_) _)
    rw [hd hrx.symm] at hn
    cases hn

theorem ask_noNewLoss {d e : Dir} {held : List Handle} {s t : State} {a : PoolAnswer}
    (h : ask e held s = (a, t)) : NoNewLoss d s t :=
  .of_eq (by rw [(ask_env h).1.eq]; cases d <;> rfl)

theorem setActive_noNewLoss (d e : Dir) (b : Block) (s : State) :
    NoNewLoss d s (setActive e b s) :=
  .of_eq (by cases d <;> cases e <;> rfl)

/-- RX_DONE brings in OVERRUN under the default policy only (R298). -/
theorem rxDone_noNewLoss {d : Dir} {status : BitVec 8} {s t : State}
    (h : execRxDone status s = .next t) (hd : d = .rx → dropOnOverrun s = true) :
    NoNewLoss d s t := by
  rcases rxDone_cases h with rfl | ⟨_, rfl⟩ | ⟨_, _, _, rfl⟩ | ⟨_, _, _, rfl⟩
  · exact id
  · exact fault_noNewLoss (fun _ => lossCause_ne d (by decide) (by decide)) s
  · refine (setActive_noNewLoss d .rx Block.null s).trans (rxDeliver_noNewLoss (fun u => ?_) hd)
    refine .of_eq ?_
    rw [disable_eq]
    cases d <;> rfl
  · rcases rxDoneRunning_cases s with ⟨s1, ha, he⟩ | ⟨nb, s1, ha, he⟩ <;> rw [he]
    · exact (ask_noNewLoss ha).trans
        (fault_noNewLoss (fun _ => lossCause_ne d (by decide) (by decide)) s1)
    · have hload : NoNewLoss d s1 (reloaded nb s1) := .of_eq (by cases d <;> rfl)
      have hpolicy := ((transfer_reloaded nb s1).trans (transfer_ask ha)).dropOnOverrun
      exact (ask_noNewLoss ha).trans <| hload.trans <|
        rxDeliver_noNewLoss (fun _ => id) fun hrx => hpolicy.trans (hd hrx)

theorem txSend_noNewLoss (d : Dir) (b : Block) (s : State) : NoNewLoss d s (txSend b s) :=
  .of_eq (by cases d <;> simp [txSend, setActive, emit])

theorem drainEnd_noNewLoss (d : Dir) (s : State) : NoNewLoss d s (drainEnd s) := by
  refine .of_eq ?_
  rw [drainEnd, disable_eq]
  cases d <;> rfl

theorem txEmpty_noNewLoss {d : Dir} {s : State} (hd : d = .tx → repeatOnUnderrun s = true) :
    NoNewLoss d s (txEmpty s) := by
  unfold txEmpty
  split
  · exact drainEnd_noNewLoss d s
  · split
    · have hflag : NoNewLoss d s { s with underrun := true } := .of_eq (by cases d <;> rfl)
      exact hflag.trans (txSend_noNewLoss d _ _)
    · rename_i hn
      exact fault_noNewLoss (fun htx => absurd (hd htx.symm) hn) s

theorem txNext_noNewLoss (d : Dir) (b : Block) (s : State) : NoNewLoss d s (txNext b s) := by
  have hmark : ∀ u, NoNewLoss d u (markLast u) := by
    intro u
    refine .of_eq ?_
    unfold markLast
    split <;> cases d <;> rfl
  have hgive : NoNewLoss d s (give .tx { s with underrun := false }) := .of_eq (by cases d <;> rfl)
  exact hgive.trans ((hmark _).trans (txSend_noNewLoss d b _))

/-- TX_DONE brings in UNDERRUN under the default policy only (R298). -/
theorem txDone_noNewLoss {d : Dir} {status : BitVec 8} {s t : State}
    (h : execTxDone status s = .next t) (hd : d = .tx → repeatOnUnderrun s = true) :
    NoNewLoss d s t := by
  have hsent : NoNewLoss d s (sent s) := by
    refine .of_eq ?_
    rw [sent_eq]
    cases d <;> rfl
  rcases txDone_cases h with rfl | ⟨_, rfl⟩ | ⟨_, _, rfl⟩
  · exact id
  · exact fault_noNewLoss (fun _ => lossCause_ne d (by decide) (by decide)) s
  · rcases txDoneOk_cases s with ⟨_, he⟩ | ⟨_, _, he⟩ | ⟨_, _, he⟩ <;> rw [he]
    · exact hsent.trans (drainEnd_noNewLoss d _)
    · exact hsent.trans (txEmpty_noNewLoss fun htx => (sent_repeatOnUnderrun s).trans (hd htx))
    · have hpop : NoNewLoss d (sent s) (popped .tx (sent s)) := .of_eq (by cases d <;> rfl)
      exact hsent.trans (hpop.trans (txNext_noNewLoss d _ _))

theorem periphFault_noNewLoss (d : Dir) {flags : BitVec 3} {s t : State}
    (h : execPeriphFault flags s = .next t) : NoNewLoss d s t := by
  have hemit : NoNewLoss d s (emit .clearErrors s) := .of_eq (by cases d <;> rfl)
  rcases periphFault_cases h with rfl | rfl | rfl
  · exact id
  · exact hemit
  · exact hemit.trans <| (periphOne_noNewLoss d .rx _ _).trans <|
      (periphOne_noNewLoss d .tx _ _).trans <|
      (couple_noNewLoss d .rx _).trans (couple_noNewLoss d .tx _)

/-- No operation brings in the loss cause of stream `d` but that stream's completion under the
default policy. -/
theorem exec_noNewLoss {i : Instr} {s t : State} (h : exec i s = .next t) (d : Dir)
    (hrx : d = .rx → dropOnOverrun s = true) (htx : d = .tx → repeatOnUnderrun s = true) :
    NoNewLoss d s t := by
  cases hp : i.port with
  | a =>
    intro hc
    rcases (command_streamKeeps hp h d).cause with he | he
    · exact he.symm.trans hc
    · exact absurd (he.symm.trans hc) (lossCause_ne d (by decide) (by decide))
  | b =>
    cases i with
    | rxDone status => exact rxDone_noNewLoss h hrx
    | txDone status => exact txDone_noNewLoss h htx
    | periphFault flags => exact periphFault_noNewLoss d h
    | _ => cases hp

/-- Who can move `overrun`. -/
theorem exec_overrun {i : Instr} {s t : State} (h : exec i s = .next t) :
    t.overrun = s.overrun ∨ (t.overrun = false ∧ clearsLoss i) ∨
    (t.overrun = true ∧ i = .rxDone 0#8 ∧ dropOnOverrun s = true) := by
  cases hp : i.port with
  | a =>
    by_cases hc : clearsLoss i
    · have hfall := (command_loss_falls hp h).1
      cases ht : t.overrun
      · exact .inr (.inl ⟨rfl, hc⟩)
      · exact .inl (hfall ht).symm
    · exact .inl (command_lossSame hp hc h).1
  | b =>
    cases i with
    | rxDone status =>
      rcases rxDone_overrun h with he | ⟨rfl, ht, hd⟩
      · exact .inl he
      · exact .inr (.inr ⟨ht, rfl, hd⟩)
    | txDone status => exact .inl (by rw [(txDone_change h).eq])
    | periphFault flags => exact .inl (LossSame.of_transfer (periphFault_transfer h)).1
    | _ => cases hp

/-- Who can move `underrun`. -/
theorem exec_underrun {i : Instr} {s t : State} (h : exec i s = .next t) :
    t.underrun = s.underrun ∨ (t.underrun = false ∧ clearsLoss i) ∨
    (t.underrun = true ∧ i = .txDone 0#8 ∧ repeatOnUnderrun s = true) ∨
    (t.underrun = false ∧ i = .txDone 0#8 ∧ s.tx.armed = true ∧ s.lastBlockFlag = false ∧
      s.tx.head ≠ s.tx.tail) := by
  cases hp : i.port with
  | a =>
    by_cases hc : clearsLoss i
    · have hfall := (command_loss_falls hp h).2
      cases ht : t.underrun
      · exact .inr (.inl ⟨rfl, hc⟩)
      · exact .inl (hfall ht).symm
    · exact .inl (command_lossSame hp hc h).2
  | b =>
    cases i with
    | rxDone status => exact .inl (by rw [(rxDone_change h).eq])
    | txDone status =>
      rcases txDone_underrun h with he | ⟨rfl, ht, hr⟩ | ⟨rfl, harm, hl, hne, ht⟩
      · exact .inl he
      · exact .inr (.inr (.inl ⟨ht, rfl, hr⟩))
      · exact .inr (.inr (.inr ⟨ht, rfl, harm, hl, hne⟩))
    | periphFault flags => exact .inl (LossSame.of_transfer (periphFault_transfer h)).2
    | _ => cases hp

/-- Settles O60: who can move each flag, and that the policies keep the loss causes out. -/
theorem lossPolicies : Obligations.LossPolicies := by
  unfold Obligations.LossPolicies
  intro i s t h
  have ho := exec_overrun h
  have hu := exec_underrun h
  refine ⟨fun h0 h1 => ?_, fun h1 h0 => ?_, fun h0 h1 => ?_, fun h1 h0 => ?_,
    fun hd => exec_noNewLoss h .rx (fun _ => hd) nofun,
    fun hr => exec_noNewLoss h .tx nofun (fun _ => hr)⟩
  · simpa [h0, h1] using ho
  · simpa [h0, h1] using ho
  · simpa [h0, h1] using hu
  · simpa [h0, h1] using hu

end Sys2Proof.Machine
end

section
/-! Every operation keeps the invariants of 10_state.md R41: one lemma for each procedure, then the
operations. -/

namespace Sys2Proof.Machine

/-! ### What the invariants do not read -/

/-- `s` with what the invariants do not read taken from `t`: the loss flags, the filler's registers,
the history and the environment's data. -/
abbrev unreadPart (t s : State) : State :=
  { s with
    overrun := t.overrun, underrun := t.underrun, fillerSize := t.fillerSize,
    fillerBuf := t.fillerBuf, log := t.log, pending := t.pending, rxPool := t.rxPool,
    txPool := t.txPool, draws := t.draws, app := t.app }

/-- Nothing changed that the invariants read. -/
def Unread (t s : State) : Prop := t = unreadPart t s

theorem Unread.eq {t s : State} (h : Unread t s) : t = unreadPart t s := h

theorem inv_unread {t s : State} (h : Unread t s) (i : Inv s) : Inv t := by
  refine ⟨?_, rxInv_congr ?_ ?_ ?_ ?_ i.rx, txInv_congr ?_ ?_ ?_ ?_ ?_ ?_ ?_ i.tx, ?_, ?_⟩ <;>
    rw [h.eq]
  exacts [i.par, i.periph, i.duplex]

theorem inv_record (e : Event) {s : State} (i : Inv s) : Inv (record e s) :=
  inv_env (EnvChange.record e s) i

/-! ### A change of one side -/

/-- What a change that spares the TX side has to keep. -/
theorem inv_of_rx {s t : State} (i : Inv s) (hp : t.par = s.par) (hs : SideSame .tx s t)
    (hrx : RxInv t) (hper : t.periphEnabled = true ↔ t.rx.armed = true ∨ s.tx.armed = true)
    (hfd : t.fullDuplex = s.fullDuplex) : Inv t := by
  have htx : t.tx = s.tx := hs.stream
  obtain ⟨hl, -, -, -, h1, h2, h3, h4⟩ := hs.tx rfl
  refine ⟨hp ▸ i.par, hrx, txInv_congr hp htx hl h1 h2 h3 h4 i.tx, ?_, ?_⟩
  · rwa [htx]
  · rw [hfd, hp]
    exact i.duplex

/-- What a change that spares the RX side has to keep. -/
theorem inv_of_tx {s t : State} (i : Inv s) (hp : t.par = s.par) (hs : SideSame .rx s t)
    (htx : TxInv t) (hper : t.periphEnabled = true ↔ s.rx.armed = true ∨ t.tx.armed = true)
    (hfd : t.fullDuplex = s.fullDuplex) : Inv t := by
  have hrx : t.rx = s.rx := hs.stream
  obtain ⟨-, h1, h2⟩ := hs.rx rfl
  refine ⟨hp ▸ i.par, rxInv_congr hp hrx h1 h2 i.rx, htx, ?_, ?_⟩
  · rwa [hrx]
  · rw [hfd, hp]
    exact i.duplex

theorem SideSame.trans {d : Dir} {s t u : State} (h : SideSame d s t) (g : SideSame d t u) :
    SideSame d s u := by
  refine ⟨g.stream.trans h.stream, fun hd => ?_, fun hd => ?_⟩
  · simp only [g.rx hd, h.rx hd, and_self]
  · simp only [g.tx hd, h.tx hd, and_self]

theorem sideSame_upd (d : Dir) (f : Stream → Stream) (s : State) :
    SideSame d.other s (s.upd d f) := by
  cases d
  · exact ⟨rfl, nofun, fun _ => ⟨rfl, rfl, rfl, rfl, rfl, rfl, rfl, rfl⟩⟩
  · exact ⟨rfl, fun _ => ⟨rfl, rfl, rfl⟩, nofun⟩

/-- The RD timer after FlowReset (R37, R152). -/
theorem RxInv.timer_reset {s : State} (i : RxInv s) :
    (if s.rdPhase = .wait then 0 else s.rdTimer) = 0#32 := by
  cases h : s.rdPhase
  · simpa using i.idle h
  · rfl

/-- The WR registers after FlowReset or AbortWrite (R38, R152). -/
theorem TxInv.channel_reset {s : State} (i : TxInv s) :
    (if s.wrPhase = .wait then 0 else s.wrTimer) = 0#32 ∧
    (if s.wrPhase = .wait then NULL else s.wrH) = NULL ∧
    (if s.wrPhase = .wait then 0 else s.wrSz) = 0#32 := by
  cases h : s.wrPhase
  · simpa using i.idle h
  · exact ⟨rfl, rfl, rfl⟩

/-- The peripheral after Disable of RX (R172). -/
theorem Inv.periph_rx_off {s : State} (i : Inv s) :
    (s.tx.armed && s.periphEnabled) = true ↔ false = true ∨ s.tx.armed = true := by
  have := i.periph
  cases h : s.tx.armed <;> simp_all

/-- The peripheral after Disable of TX (R172). -/
theorem Inv.periph_tx_off {s : State} (i : Inv s) :
    (s.rx.armed && s.periphEnabled) = true ↔ s.rx.armed = true ∨ false = true := by
  have := i.periph
  cases h : s.rx.armed <;> simp_all

/-! ### StopStream, PREPARE, CONFIGURE, TEARDOWN -/

theorem Inv.bounds {s : State} (i : Inv s) (d : Dir) : StreamBounds d s := by
  cases d
  · exact i.rx.stream.bounds
  · exact i.tx.stream.bounds

theorem Inv.streamInv {s : State} (i : Inv s) (d : Dir) : StreamInv d s := by
  cases d
  · exact i.rx.stream
  · exact i.tx.stream

theorem StreamInv.unarmed {d : Dir} {s : State} (i : StreamInv d s)
    (h1 : (s.stream d).state ≠ .running) (h2 : (s.stream d).state ≠ .stopping) :
    (s.stream d).armed = false := by
  have := i.armed_iff
  simp_all

/-- RX closed: its queue dropped, its transfer off, its reader answered; in READY or NOT_READY with
configuration `c` (R173, R179, R271, R274). -/
theorem inv_closed_rx {s t : State} (i : Inv s) (hp : t.par = s.par) (hs : SideSame .tx s t)
    (hq : Emptied t.rx s.rx) (h1 : t.rdPhase = .idle)
    (h2 : t.rdTimer = if s.rdPhase = .wait then 0 else s.rdTimer)
    (h3 : t.periphEnabled = (s.tx.armed && s.periphEnabled))
    (hfd : t.fullDuplex = s.fullDuplex) : Inv t := by
  refine inv_of_rx i hp hs ?_ ?_ hfd
  · exact rxInv_emptied hp hq (i.bounds .rx) i.par h1 (h2.trans i.rx.timer_reset)
  · rw [h3, hq.armed]
    exact i.periph_rx_off

/-- TX closed, likewise. -/
theorem inv_closed_tx {s t : State} (i : Inv s) (hp : t.par = s.par) (hs : SideSame .rx s t)
    (hq : Emptied t.tx s.tx) (hl : t.lastBlockFlag = false) (h1 : t.wrPhase = .idle)
    (h2 : t.wrTimer = if s.wrPhase = .wait then 0 else s.wrTimer)
    (h3 : t.wrH = if s.wrPhase = .wait then NULL else s.wrH)
    (h4 : t.wrSz = if s.wrPhase = .wait then 0 else s.wrSz)
    (h5 : t.periphEnabled = (s.rx.armed && s.periphEnabled))
    (hfd : t.fullDuplex = s.fullDuplex) : Inv t := by
  obtain ⟨k2, k3, k4⟩ := i.tx.channel_reset
  refine inv_of_tx i hp hs ?_ ?_ hfd
  · exact txInv_emptied hp hq (i.bounds .tx) hl h1 (h2.trans k2) (h3.trans k3) (h4.trans k4)
  · rw [h5, hq.armed]
    exact i.periph_tx_off

theorem inv_stopStream (d : Dir) {s : State} (i : Inv s) : Inv (stopStream d s) := by
  cases d
  · rw [stopStream_rx (i.bounds .rx)]
    exact inv_closed_rx i rfl ⟨rfl, nofun, fun _ => ⟨rfl, rfl, rfl, rfl, rfl, rfl, rfl, rfl⟩⟩
      ⟨rfl, rfl, rfl, rfl, rfl, rfl, rfl, rfl, .inl rfl⟩ rfl rfl rfl rfl
  · rw [stopStream_tx (i.bounds .tx)]
    exact inv_closed_tx i rfl ⟨rfl, fun _ => ⟨rfl, rfl, rfl⟩, nofun⟩
      ⟨rfl, rfl, rfl, rfl, rfl, rfl, rfl, rfl, .inl rfl⟩ rfl rfl rfl rfl rfl rfl rfl

/-- With the stream unarmed the peripheral is on for the other one alone. -/
theorem Inv.periph_eq {s : State} (i : Inv s) {d : Dir} (h : (s.stream d).armed = false) :
    s.periphEnabled = ((s.stream d.other).armed && s.periphEnabled) := by
  have := i.periph
  cases d <;> simp_all

/-- A stream that is off, emptied and left in READY or NOT_READY with any configuration
(R179, R271). -/
theorem inv_prepared (d : Dir) {q : StreamState} (hq : q = .ready ∨ q = .notReady) (c : Cfg)
    {s : State} (i : Inv s) (h : (s.stream d).armed = false) :
    Inv (setState d q (setCfg d c (prepareOne d s))) := by
  have hact := (i.streamInv d).inactive h
  have hper := i.periph_eq h
  cases d
  · rw [prepareOne_rx (i.bounds .rx)]
    exact inv_closed_rx i rfl ⟨rfl, nofun, fun _ => ⟨rfl, rfl, rfl, rfl, rfl, rfl, rfl, rfl⟩⟩
      ⟨rfl, rfl, rfl, rfl, rfl, rfl, h, hact, hq⟩ rfl rfl hper rfl
  · have hlast : s.lastBlockFlag = false := by
      have h1 := i.tx.last
      have h2 := i.tx.stream.armed_iff
      cases hl : s.lastBlockFlag <;> simp_all
    rw [prepareOne_tx (i.bounds .tx)]
    exact inv_closed_tx i rfl ⟨rfl, fun _ => ⟨rfl, rfl, rfl⟩, nofun⟩
      ⟨rfl, rfl, rfl, rfl, rfl, rfl, h, hact, hq⟩ hlast rfl rfl rfl rfl hper rfl

theorem inv_prepareOne (d : Dir) {s : State} (i : Inv s) (h : (s.stream d).armed = false) :
    Inv (prepareOne d s) := by
  have hp := inv_prepared d (.inl rfl) ((prepareOne d s).stream d).cfg i h
  have hset : ∀ u, setState d .ready (setCfg d ((setState d .ready u).stream d).cfg
      (setState d .ready u)) = setState d .ready u := by
    intro u
    cases d <;> rfl
  rw [prepareOne] at hp ⊢
  rwa [hset] at hp

/-- CONFIGURE of one stream is PREPARE of it, then the new configuration (R179, R271). -/
theorem configureOne_eq (d : Dir) (c : Cfg) (s : State) :
    configureOne d c s = storeCfg d c (prepareOne d s) := by
  have hstore : ∀ u, storeCfg d c u = storeCfg d c (setState d .ready u) := by
    intro u
    unfold storeCfg
    split <;> cases d <;> rfl
  exact hstore _

theorem inv_configureOne (d : Dir) (c : Cfg) {s : State} (i : Inv s)
    (h : (s.stream d).armed = false) : Inv (configureOne d c s) := by
  rw [configureOne_eq, storeCfg]
  split
  · exact inv_prepared d (.inr rfl) _ i h
  · exact inv_prepared d (.inl rfl) _ i h

/-- TEARDOWN of a stream that is on stops it and clears its configuration (R173, R274). -/
theorem teardownOne_of_ne {d : Dir} {s : State} (h : (s.stream d).state ≠ .notReady) :
    teardownOne d s = setState d .notReady (setCfg d Cfg.zero (stopStream d s)) := by
  have hset : ∀ u, setState d .notReady (setCfg d Cfg.zero (setCause d .none u)) =
      setState d .notReady (setCfg d Cfg.zero (setState d .ready (setCause d .none u))) := by
    intro u
    cases d <;> rfl
  unfold teardownOne stopStream
  simp only [if_pos h, hset]

theorem teardownOne_of_eq {d : Dir} {s : State} (h : (s.stream d).state = .notReady) :
    teardownOne d s = setCause d .none (setCfg d Cfg.zero s) := by
  unfold teardownOne
  have hn : ¬ (s.stream d).state ≠ .notReady := not_not_intro h
  simp only [if_neg hn]
  cases d <;> simp_all [setState, setCfg, setCause, State.upd, State.stream]

/-- The invariants read neither the configuration nor the fault cause. -/
theorem inv_setCfg_setCause (d : Dir) (k : FaultCause) (c : Cfg) {s : State} (i : Inv s) :
    Inv (setCause d k (setCfg d c s)) := by
  have hi := i.streamInv d
  have hq : QueueSame ((setCause d k (setCfg d c s)).stream d) (s.stream d) := by
    cases d <;> exact ⟨rfl, rfl, rfl, rfl, rfl, rfl⟩
  have hp : (setCause d k (setCfg d c s)).par = s.par := by cases d <;> rfl
  have hstream : StreamInv d (setCause d k (setCfg d c s)) := by
    cases d <;> exact same_streamInv hp hq hi hi.armed_iff hi.active_iff hi.inactive
      hi.active_fits hi.off
  cases d
  · refine inv_of_rx i rfl ⟨rfl, nofun, fun _ => ⟨rfl, rfl, rfl, rfl, rfl, rfl, rfl, rfl⟩⟩
      ⟨hstream, ?_, i.rx.not_stopping, i.rx.active, i.rx.idle, i.rx.wait⟩ i.periph rfl
    rw [same_flowTrue hp hq, same_occ hp hq]
    exact i.rx.flow
  · refine inv_of_tx i rfl ⟨rfl, fun _ => ⟨rfl, rfl, rfl⟩, nofun⟩
      ⟨hstream, ?_, i.tx.last, ?_, i.tx.idle, i.tx.wait⟩ i.periph rfl
    · rw [same_flowTrue hp hq, same_occ hp hq]
      exact i.tx.flow
    · rw [same_occ hp hq]
      exact i.tx.last_empty

theorem inv_teardownOne (d : Dir) {s : State} (i : Inv s) : Inv (teardownOne d s) := by
  by_cases h : (s.stream d).state = .notReady
  · rw [teardownOne_of_eq h]
    exact inv_setCfg_setCause d _ _ i
  · rw [teardownOne_of_ne h]
    cases d
    · rw [stopStream_rx (i.bounds .rx)]
      exact inv_closed_rx i rfl ⟨rfl, nofun, fun _ => ⟨rfl, rfl, rfl, rfl, rfl, rfl, rfl, rfl⟩⟩
        ⟨rfl, rfl, rfl, rfl, rfl, rfl, rfl, rfl, .inr rfl⟩ rfl rfl rfl rfl
    · rw [stopStream_tx (i.bounds .tx)]
      exact inv_closed_tx i rfl ⟨rfl, fun _ => ⟨rfl, rfl, rfl⟩, nofun⟩
        ⟨rfl, rfl, rfl, rfl, rfl, rfl, rfl, rfl, .inr rfl⟩ rfl rfl rfl rfl rfl rfl rfl

/-! ### A stream whose transfer starts, goes on or ends -/

/-- A stream with a Block under DMA. -/
theorem streamInv_armed {d : Dir} {s t : State} (hp : t.par = s.par)
    (hq : QueueSame (t.stream d) (s.stream d)) (h : StreamInv d s)
    (hst : (t.stream d).state = .running ∨ (t.stream d).state = .stopping)
    (harm : (t.stream d).armed = true) (hact : (t.stream d).active.h ≠ NULL)
    (hfit : (t.stream d).active.h.fits s.par.blkW) : StreamInv d t := by
  refine same_streamInv hp hq h (by simp [harm, hst]) (by simp [harm, hact]) ?_ hfit ?_
  · simp [harm]
  · rcases hst with hst | hst <;> simp [hst]

/-- A stream with its transfer off, not in NOT_READY. -/
theorem streamInv_disarmed {d : Dir} {s t : State} (hp : t.par = s.par)
    (hq : QueueSame (t.stream d) (s.stream d)) (h : StreamInv d s)
    (hst : (t.stream d).state = .ready ∨ (t.stream d).state = .error)
    (harm : (t.stream d).armed = false) (hact : (t.stream d).active = Block.null) :
    StreamInv d t := by
  refine same_streamInv hp hq h ?_ (by simp [harm, hact]) (fun _ => hact) ?_ ?_
  · rcases hst with hst | hst <;> simp [hst, harm]
  · rw [hact]
    exact Nat.two_pow_pos _
  · rcases hst with hst | hst <;> simp [hst]

/-- RX RUNNING with a pool's Block under DMA. -/
theorem rxInv_armed {s t : State} (h : RxInv s) (hp : t.par = s.par) (hq : QueueSame t.rx s.rx)
    (hst : t.rx.state = .running) (harm : t.rx.armed = true) (hact : PoolHandle s t.rx.active.h)
    (h1 : t.rdPhase = s.rdPhase) (h2 : t.rdTimer = s.rdTimer) : RxInv t := by
  have hq' : QueueSame (t.stream .rx) (s.stream .rx) := hq
  obtain ⟨hnull, hfill, hfit⟩ := hact
  refine ⟨streamInv_armed hp hq' h.stream (.inl hst) harm hnull hfit, ?_, by simp [hst],
    by rwa [hp], by rw [h1, h2]; exact h.idle, by simp [hst]⟩
  rw [same_flowTrue hp hq', same_occ hp hq']
  exact h.flow

/-- RX in ERROR with its transfer off. -/
theorem rxInv_faulted {s t : State} (h : RxInv s) (hp : t.par = s.par) (hk : s.par.ok)
    (hq : QueueSame t.rx s.rx) (hst : t.rx.state = .error)
    (harm : t.rx.armed = false) (hact : t.rx.active = Block.null) (h1 : t.rdPhase = s.rdPhase)
    (h2 : t.rdTimer = s.rdTimer) : RxInv t := by
  have hq' : QueueSame (t.stream .rx) (s.stream .rx) := hq
  refine ⟨streamInv_disarmed hp hq' h.stream (.inr hst) harm hact, ?_, by simp [hst], ?_,
    by rw [h1, h2]; exact h.idle, by simp [hst]⟩
  · rw [same_flowTrue hp hq', same_occ hp hq']
    exact h.flow
  · rw [hact, hp]
    exact hk.2.2.1.symm

/-- TX RUNNING or STOPPING with a Block under DMA. -/
theorem txInv_armed {s t : State} (h : TxInv s) (hp : t.par = s.par) (hq : QueueSame t.tx s.tx)
    (hst : t.tx.state = .running ∨ t.tx.state = .stopping) (harm : t.tx.armed = true)
    (hact : t.tx.active.h ≠ NULL) (hfit : t.tx.active.h.fits s.par.blkW)
    (hlast : t.lastBlockFlag = true → t.tx.state = .stopping)
    (hempty : t.tx.state = .stopping → (t.lastBlockFlag = true ↔ occ .tx s = 0))
    (hidle : t.wrPhase = .idle → t.wrTimer = 0#32 ∧ t.wrH = NULL ∧ t.wrSz = 0#32)
    (hwait : t.wrPhase = .wait → PoolHandle s t.wrH ∧ t.tx.state ≠ .stopping) : TxInv t := by
  have hq' : QueueSame (t.stream .tx) (s.stream .tx) := hq
  refine ⟨streamInv_armed hp hq' h.stream hst harm hact hfit, ?_, hlast, ?_, hidle, fun hw => ?_⟩
  · rw [same_flowTrue hp hq', same_occ hp hq', qcap_congr hp]
    exact h.flow
  · rw [same_occ hp hq']
    exact hempty
  · obtain ⟨hpool, hns⟩ := hwait hw
    refine ⟨by simpa only [PoolHandle, hp] using hpool, ?_, hns⟩
    rcases hst with hst | hst <;> simp [hst]

/-- TX in READY or ERROR with its transfer off and its queue kept. -/
theorem txInv_disarmed {s t : State} (h : TxInv s) (hp : t.par = s.par) (hq : QueueSame t.tx s.tx)
    (hst : t.tx.state = .ready ∨ t.tx.state = .error) (harm : t.tx.armed = false)
    (hact : t.tx.active = Block.null) (hl : t.lastBlockFlag = false)
    (h1 : t.wrPhase = s.wrPhase) (h2 : t.wrTimer = s.wrTimer) (h3 : t.wrH = s.wrH)
    (h4 : t.wrSz = s.wrSz) : TxInv t := by
  have hq' : QueueSame (t.stream .tx) (s.stream .tx) := hq
  refine ⟨streamInv_disarmed hp hq' h.stream hst harm hact, ?_, by simp [hl], ?_,
    by rw [h1, h2, h3, h4]; exact h.idle, fun hw => ?_⟩
  · rw [same_flowTrue hp hq', same_occ hp hq', qcap_congr hp]
    exact h.flow
  · rcases hst with hst | hst <;> simp [hst]
  · have hpool := (h.wait (h1 ▸ hw)).1
    refine ⟨by simpa only [PoolHandle, hp, h3] using hpool, ?_⟩
    rcases hst with hst | hst <;> simp [hst]

/-- FaultOne keeps the invariants, from any state of the stream (60_exceptions.md R295). -/
theorem inv_faultOne (d : Dir) (c : FaultCause) {s : State} (i : Inv s) : Inv (faultOne d c s) := by
  rw [faultOne_eq]
  cases d
  · refine inv_of_rx i rfl ⟨rfl, nofun, fun _ => ⟨rfl, rfl, rfl, rfl, rfl, rfl, rfl, rfl⟩⟩
      ?_ i.periph_rx_off rfl
    exact rxInv_faulted i.rx rfl i.par ⟨rfl, rfl, rfl, rfl, rfl, rfl⟩ rfl rfl rfl rfl rfl
  · refine inv_of_tx i rfl ⟨rfl, fun _ => ⟨rfl, rfl, rfl⟩, nofun⟩ ?_ i.periph_tx_off rfl
    exact txInv_disarmed i.tx rfl ⟨rfl, rfl, rfl, rfl, rfl, rfl⟩ (.inr rfl) rfl rfl rfl rfl rfl
      rfl rfl

theorem inv_couple (d : Dir) {s : State} (i : Inv s) : Inv (couple d s) := by
  unfold couple
  split
  · exact inv_faultOne d _ i
  · exact i

theorem inv_fault (d : Dir) (c : FaultCause) {s : State} (i : Inv s) : Inv (fault d c s) :=
  inv_couple _ (inv_faultOne d c i)

theorem inv_periphOne (d : Dir) (v : Bool) {s : State} (i : Inv s) : Inv (periphOne d v s) := by
  unfold periphOne
  split
  · exact inv_faultOne d _ i
  · exact i

/-- The end of a drain (R218). -/
theorem inv_drainEnd {s : State} (i : Inv s) : Inv (drainEnd s) := by
  rw [drainEnd, disable_eq]
  refine inv_of_tx i rfl ⟨rfl, fun _ => ⟨rfl, rfl, rfl⟩, nofun⟩ ?_ i.periph_tx_off rfl
  exact txInv_disarmed i.tx rfl ⟨rfl, rfl, rfl, rfl, rfl, rfl⟩ (.inl rfl) rfl rfl rfl rfl rfl
    rfl rfl

/-- The beginning of a drain (R177). -/
theorem inv_drainTx {s : State} (i : Inv s) (h : s.tx.state = .running) : Inv (drainTx s) := by
  have harm : s.tx.armed = true := i.tx.stream.armed_iff.2 (.inl h)
  have hocc : occ .tx (setState .tx .stopping (abortWrite s)) = occ .tx s := by
    rw [abortWrite_eq]
    rfl
  unfold drainTx
  dsimp only
  rw [hocc, abortWrite_eq]
  refine inv_of_tx i rfl ⟨rfl, fun _ => ⟨rfl, rfl, rfl⟩, nofun⟩ ?_ i.periph rfl
  exact txInv_armed i.tx rfl ⟨rfl, rfl, rfl, rfl, rfl, rfl⟩ (.inr rfl) harm
    (i.tx.stream.active_iff.2 harm) i.tx.stream.active_fits (fun _ => rfl)
    (fun _ => decide_eq_true_iff) (fun _ => i.tx.channel_reset) nofun

/-! ### START -/

/-- A stream that START armed with Block `h`, the peripheral on (R171, R174). -/
def begun (d : Dir) (h : Handle) (s : State) : State :=
  { setState d .running (arm d h s) with periphEnabled := true }

theorem inv_begun {d : Dir} {h : Handle} {s : State} (i : Inv s)
    (hst : (s.stream d).state = .ready) (hh : PoolHandle s h) : Inv (begun d h s) := by
  rw [begun, arm_eq]
  cases d
  · refine inv_of_rx i rfl ⟨rfl, nofun, fun _ => ⟨rfl, rfl, rfl, rfl, rfl, rfl, rfl, rfl⟩⟩
      ?_ ⟨fun _ => .inl rfl, fun _ => rfl⟩ rfl
    exact rxInv_armed i.rx rfl ⟨rfl, rfl, rfl, rfl, rfl, rfl⟩ rfl rfl hh rfl rfl
  · refine inv_of_tx i rfl ⟨rfl, fun _ => ⟨rfl, rfl, rfl⟩, nofun⟩
      ?_ ⟨fun _ => .inr rfl, fun _ => rfl⟩ rfl
    exact txInv_armed i.tx rfl ⟨rfl, rfl, rfl, rfl, rfl, rfl⟩ (.inl rfl) rfl hh.1 hh.2.2 nofun
      nofun i.tx.idle (fun hw => ⟨(i.tx.wait hw).1, nofun⟩)

end Sys2Proof.Machine
end

section
/-! Every step keeps the invariants of 10_state.md R41: the pools' answers, the completions, the
grants, SYNC, and the step itself (O12). -/

namespace Sys2Proof.Machine

/-! ### Asking the pools -/

/-- `s` with what asking a pool writes taken from `t`. -/
abbrev poolPart (t s : State) : State :=
  { s with log := t.log, rxPool := t.rxPool, txPool := t.txPool, draws := t.draws }

/-- Nothing changed but the history, the pools' answers and the draw counter. -/
def PoolChange (t s : State) : Prop := t = poolPart t s

theorem PoolChange.eq {t s : State} (h : PoolChange t s) : t = poolPart t s := h

theorem PoolChange.trans {u t s : State} (h : PoolChange u t) (g : PoolChange t s) :
    PoolChange u s := by
  unfold PoolChange
  conv_lhs => rw [h.eq, g.eq]

theorem PoolChange.unread {t s : State} (h : PoolChange t s) : Unread t s := by
  unfold Unread
  conv_lhs => rw [h.eq]
  rw [h.eq]

theorem PoolChange.par {t s : State} (h : PoolChange t s) : t.par = s.par := by rw [h.eq]

theorem PoolChange.stream {t s : State} (h : PoolChange t s) (d : Dir) :
    t.stream d = s.stream d := by
  rw [h.eq]
  cases d <;> rfl

theorem PoolChange.app {t s : State} (h : PoolChange t s) : t.app = s.app := by rw [h.eq]

theorem ask_poolChange {d : Dir} {held : List Handle} {s t : State} {a : PoolAnswer}
    (h : ask d held s = (a, t)) : PoolChange t s := by
  rcases ask_cases d held s with ⟨b, l, _, he⟩ | ⟨_, he⟩ <;> rw [he] at h <;> cases h
  · cases d <;> rfl
  · rfl

theorem inFlight_congr {d : Dir} {s t : State} (hp : t.par = s.par)
    (hs : t.stream d = s.stream d) : inFlight d t = inFlight d s := by
  rw [inFlight, inFlight, hp, hs]

theorem owned_congr {s t : State} (hp : t.par = s.par) (hs : ∀ d, t.stream d = s.stream d)
    (ha : t.app = s.app) : owned t = owned s := by
  simp only [owned, inFlight_congr hp (hs _), queuedHandles, queued_congr hp (hs _), ha]

theorem PoolChange.owned {t s : State} (h : PoolChange t s) : owned t = owned s :=
  owned_congr h.par h.stream h.app

/-- What an answered allocation is: the history's two entries and a handle no one owns (R54). -/
theorem ask_block {d : Dir} {held : List Handle} {s t : State} {h : Handle}
    (ha : ask d held s = (.block h, t)) :
    PoolChange t s ∧ PoolHandle s h ∧ h ∉ owned s ∧ h ∉ held := by
  obtain ⟨hpool, hown, -, hheld⟩ := legalAnswer_block.1 (ask_env ha).2
  exact ⟨ask_poolChange ha, hpool, hown, hheld⟩

/-- The handles `new` that the pools of `T` gave, over those of `got` the step held already: handles
of the Device that no one owns, all different (R54, R174). -/
structure Obtained (T : List Dir) (got new : List (Dir × Handle)) (s t : State) : Prop where
  change : PoolChange t s
  dirs : new.map Prod.fst = T
  pool : ∀ p ∈ new, PoolHandle s p.2
  fresh : ∀ p ∈ new, p.2 ∉ owned s
  held : ∀ p ∈ new, p.2 ∉ got.map Prod.snd
  nodup : (new.map Prod.snd).Nodup

theorem allocAll_some {T : List Dir} {got all : List (Dir × Handle)} {s t : State}
    (h : allocAll T got s = (some all, t)) : ∃ new, all = got ++ new ∧ Obtained T got new s t := by
  induction T generalizing got s with
  | nil =>
    cases h
    exact ⟨[], (List.append_nil _).symm, rfl, rfl, nofun, nofun, nofun, List.nodup_nil⟩
  | cons d T ih =>
    rw [allocAll] at h
    split at h
    · cases h
    · rename_i k s1 ha
      obtain ⟨hc, hpool, hown, hheld⟩ := ask_block ha
      obtain ⟨new, rfl, o⟩ := ih h
      have hk : k ∉ new.map Prod.snd := fun hmem => by
        obtain ⟨p, hp, rfl⟩ := List.mem_map.1 hmem
        exact o.held p hp (by simp)
      refine ⟨(d, k) :: new, by simp, o.change.trans hc, by simp [o.dirs], ?_, ?_, ?_,
        List.nodup_cons.2 ⟨hk, o.nodup⟩⟩
      · refine List.forall_mem_cons.2 ⟨hpool, fun p hp => ?_⟩
        have := o.pool p hp
        rwa [PoolHandle, hc.par] at this
      · refine List.forall_mem_cons.2 ⟨hown, fun p hp => ?_⟩
        rw [← hc.owned]
        exact o.fresh p hp
      · refine List.forall_mem_cons.2 ⟨hheld, fun p hp hmem => o.held p hp ?_⟩
        rw [List.map_append]
        exact List.mem_append_left _ hmem

theorem allocAll_start {T : List Dir} {got : List (Dir × Handle)} {s t : State}
    (h : allocAll T [] s = (some got, t)) : Obtained T [] got s t := by
  obtain ⟨new, he, o⟩ := allocAll_some h
  rw [List.nil_append] at he
  rwa [he]

theorem foldl_free (got : List (Dir × Handle)) (s : State) :
    got.foldl (fun u p => emit (.poolFree p.1 p.2) u) s =
      { s with log := s.log ++ got.map fun p => .call (.poolFree p.1 p.2) } := by
  induction got generalizing s with
  | nil => simp
  | cons p got ih =>
    rw [List.foldl_cons, ih]
    simp [emit, record]

theorem allocAll_none {T : List Dir} {got : List (Dir × Handle)} {s t : State}
    (h : allocAll T got s = (none, t)) : PoolChange t s := by
  induction T generalizing got s with
  | nil => cases h
  | cons d T ih =>
    rw [allocAll] at h
    split at h
    · rename_i s1 ha
      cases h
      have hfree : PoolChange (got.foldl (fun u p => emit (.poolFree p.1 p.2) u) s1) s1 := by
        rw [foldl_free]
        rfl
      exact hfree.trans (ask_poolChange ha)
    · rename_i k s1 ha
      exact (ih h).trans (ask_poolChange ha)

/-! ### START -/

theorem periphOn_eq (s : State) :
    periphOn s = { s with periphEnabled := true, log := (periphOn s).log } := by
  unfold periphOn
  split
  · rfl
  · rename_i h
    have hon : s.periphEnabled = true := by simpa using h
    rw [← hon]

/-- START of one stream, up to the history (R174). -/
theorem start_one_unread (d : Dir) (h : Handle) (s : State) :
    Unread (setState d .running (periphOn (arm d h s))) (begun d h s) := by
  rw [periphOn_eq]
  cases d <;> rfl

/-- START of both streams, up to the history (R174). -/
theorem start_both_unread (h k : Handle) (s : State) :
    Unread (setState .tx .running (setState .rx .running (periphOn (arm .tx k (arm .rx h s)))))
      (begun .tx k (begun .rx h s)) := by
  rw [periphOn_eq, begun, begun]
  simp only [arm_eq]
  rfl

theorem targets_cases (dir : DirSel) (s : State) :
    (∃ d, targets dir s = [d]) ∨ targets dir s = [.rx, .tx] := by
  unfold targets
  split
  · exact .inr rfl
  · rename_i h
    cases dir
    · exact .inl ⟨.rx, rfl⟩
    · exact .inl ⟨.tx, rfl⟩
    · exact absurd (.inl rfl) h

theorem targets_nodup (dir : DirSel) (s : State) : (targets dir s).Nodup := by
  rcases targets_cases dir s with ⟨d, h⟩ | h <;> rw [h] <;> simp

theorem addressed_nodup (dir : DirSel) : (addressed dir).Nodup := by
  cases dir <;> decide

theorem map_fst_singleton {l : List (Dir × Handle)} {d : Dir} (h : l.map Prod.fst = [d]) :
    ∃ k, l = [(d, k)] := by
  obtain ⟨p, rfl, rfl⟩ := List.map_eq_singleton_iff.1 h
  exact ⟨p.2, rfl⟩

theorem map_fst_pair {l : List (Dir × Handle)} {d e : Dir} (h : l.map Prod.fst = [d, e]) :
    ∃ k m, l = [(d, k), (e, m)] := by
  match l, h with
  | [(_, k), (_, m)], rfl => exact ⟨k, m, rfl⟩

/-- What a START that was granted leaves, up to the history: each target begun with its Block. -/
theorem started_cases {T : List Dir} {got : List (Dir × Handle)} {s t : State}
    (hT : (∃ d, T = [d]) ∨ T = [.rx, .tx]) (o : Obtained T [] got s t) :
    (∃ d h, T = [d] ∧ got = [(d, h)] ∧
      Unread (T.foldl (fun u d => setState d .running u)
        (periphOn (got.foldl (fun u p => arm p.1 p.2 u) t))) (begun d h t)) ∨
    (∃ h k, T = [.rx, .tx] ∧ got = [(.rx, h), (.tx, k)] ∧
      Unread (T.foldl (fun u d => setState d .running u)
        (periphOn (got.foldl (fun u p => arm p.1 p.2 u) t))) (begun .tx k (begun .rx h t))) := by
  rcases hT with ⟨d, rfl⟩ | rfl
  · obtain ⟨h, rfl⟩ := map_fst_singleton o.dirs
    exact .inl ⟨d, h, rfl, rfl, start_one_unread d h t⟩
  · obtain ⟨h, k, rfl⟩ := map_fst_pair o.dirs
    exact .inr ⟨h, k, rfl, rfl, start_both_unread h k t⟩

theorem begun_stream_ne {d e : Dir} (he : e ≠ d) (h : Handle) (s : State) :
    (begun d h s).stream e = s.stream e := by
  rw [begun, arm_eq]
  cases d <;> cases e <;> first | rfl | exact absurd rfl he

theorem begun_par (d : Dir) (h : Handle) (s : State) : (begun d h s).par = s.par := by
  rw [begun, arm_eq]
  cases d <;> rfl

theorem inv_start {dir : DirSel} {s t : State} (i : Inv s)
    (h : execTriggerStart dir s = .next t) : Inv t := by
  rcases start_cases h with ⟨got, s1, ha, hready, rfl⟩ | ⟨s1, ha, rfl⟩ | rfl
  · have o := allocAll_start ha
    have i1 := inv_unread o.change.unread i
    have hpool : ∀ p ∈ got, PoolHandle s1 p.2 := fun p hp => by
      rw [PoolHandle, o.change.par]
      exact o.pool p hp
    refine inv_record _ ?_
    rcases started_cases (targets_cases dir s) o with
      ⟨d, k, hT, rfl, hu⟩ | ⟨k, m, hT, rfl, hu⟩
    · refine inv_unread hu (inv_begun i1 ?_ (hpool (d, k) (by simp)))
      rw [o.change.stream]
      exact hready d (by simp [hT])
    · have i2 : Inv (begun .rx k s1) := by
        refine inv_begun i1 ?_ (hpool (.rx, k) (by simp))
        rw [o.change.stream]
        exact hready .rx (by simp [hT])
      refine inv_unread hu (inv_begun i2 ?_ ?_)
      · rw [begun_stream_ne (by decide), o.change.stream]
        exact hready .tx (by simp [hT])
      · rw [PoolHandle, begun_par]
        exact hpool (.tx, m) (by simp)
  · exact inv_record _ (inv_unread (allocAll_none ha).unread i)
  · exact inv_record _ i

/-! ### Changes of a queue and its counter -/

/-- A stream outside NOT_READY whose queue and counters moved within their bounds. -/
theorem streamInv_queue {d : Dir} {s t : State} (h : StreamInv d s) (hp : t.par = s.par)
    (hst : (s.stream d).state ≠ .notReady) (h1 : (t.stream d).state = (s.stream d).state)
    (h2 : (t.stream d).armed = (s.stream d).armed) (h3 : (t.stream d).active = (s.stream d).active)
    (hb : StreamBounds d t) (hview : flowView d t ≤ flowTrue d t)
    (hflow : flowTrue d t ≤ s.qcap d) (hq : ∀ b ∈ queued d t, PoolHandle s b.h) :
    StreamInv d t := by
  refine ⟨hb, ?_, ?_, ?_, ?_, hview, by rwa [qcap_congr hp], ?_, ?_⟩
  · rw [h1, h2]
    exact h.armed_iff
  · rw [h2, h3]
    exact h.active_iff
  · rw [h2, h3]
    exact h.inactive
  · rw [h3, hp]
    exact h.active_fits
  · rw [h1]
    exact fun he => absurd he hst
  · simpa only [PoolHandle, hp] using hq

theorem pushed_flowTrue (d : Dir) (b : Block) (s : State) :
    flowTrue d (pushed d b s) = flowTrue d s := by
  rw [flowTrue, flowMod_congr (pushed_par d b s), initFlow_congr (pushed_par d b s)]
  simp [pushed, flowTrue]

theorem pushed_flowView (d : Dir) (b : Block) (s : State) :
    flowView d (pushed d b s) = flowView d s := by
  rw [flowView, flowMod_congr (pushed_par d b s), initFlow_congr (pushed_par d b s)]
  simp [pushed, flowView]

theorem popped_flowTrue (d : Dir) (s : State) : flowTrue d (popped d s) = flowTrue d s := by
  rw [flowTrue, flowMod_congr (popped_par d s), initFlow_congr (popped_par d s)]
  simp [popped, flowTrue]

theorem popped_flowView (d : Dir) (s : State) : flowView d (popped d s) = flowView d s := by
  rw [flowView, flowMod_congr (popped_par d s), initFlow_congr (popped_par d s)]
  simp [popped, flowView]

/-- The delivery of a Block to RX with room in the queue (R211 (d)). -/
theorem inv_delivered {b : Block} {s : State} (i : Inv s) (hb : PoolHandle s b.h)
    (hocc : occ .rx s < s.qcap .rx) (hst : s.rx.state ≠ .notReady) :
    Inv (give .rx (pushed .rx b s)) := by
  have hflow := i.rx.flow
  have hbounds := pushed_bounds (i.bounds .rx) b
  have htrue : flowTrue .rx (give .rx (pushed .rx b s)) = flowTrue .rx s + 1 := by
    rw [give_flowTrue, pushed_flowTrue]
    rw [pushed_flowTrue, pushed_qcap]
    omega
  have hview : flowView .rx (give .rx (pushed .rx b s)) = flowView .rx s := by
    rw [give_flowView, pushed_flowView]
  have hle := i.rx.stream.view_le
  refine inv_of_rx i rfl ⟨rfl, nofun, fun _ => ⟨rfl, rfl, rfl, rfl, rfl, rfl, rfl, rfl⟩⟩
    ⟨?_, ?_, i.rx.not_stopping, i.rx.active, i.rx.idle, i.rx.wait⟩ i.periph rfl
  · refine streamInv_queue i.rx.stream rfl hst rfl rfl rfl (give_bounds hbounds) ?_ ?_ ?_
    · omega
    · omega
    · rw [give_queued, pushed_queued (i.bounds .rx) b hocc]
      intro c hc
      rcases List.mem_append.1 hc with hc | hc
      · exact i.rx.stream.queued_pool c hc
      · rw [List.mem_singleton.1 hc]
        exact hb
  · rw [htrue, give_occ, pushed_occ (i.bounds .rx) b hocc, hflow]

theorem markLast_eq (s : State) : markLast s = { s with
    lastBlockFlag := s.lastBlockFlag || decide (s.tx.state = .stopping ∧ occ .tx s = 0) } := by
  unfold markLast
  split
  · simp [*]
  · simp [*]

/-- The next Block leaves the TX queue, and the last one is marked in a drain (R215, R218). -/
theorem inv_advanced {s : State} (i : Inv s) (hl : s.lastBlockFlag = false)
    (hocc : 0 < occ .tx s) (hst : s.tx.state ≠ .notReady) :
    Inv (markLast (give .tx (popped .tx s))) := by
  have hflow := i.tx.flow
  have hbounds := popped_bounds (i.bounds .tx)
  have hpop : occ .tx (give .tx (popped .tx s)) + 1 = occ .tx s := by
    rw [give_occ, popped_occ (i.bounds .tx) hocc]
  have htrue : flowTrue .tx (give .tx (popped .tx s)) = flowTrue .tx s + 1 := by
    rw [give_flowTrue, popped_flowTrue]
    rw [popped_flowTrue, popped_qcap]
    omega
  have hview : flowView .tx (give .tx (popped .tx s)) = flowView .tx s := by
    rw [give_flowView, popped_flowView]
  have hle := i.tx.stream.view_le
  rw [markLast_eq]
  refine inv_of_tx i rfl ⟨rfl, fun _ => ⟨rfl, rfl, rfl⟩, nofun⟩ ?_ i.periph rfl
  have hstream : StreamInv .tx (give .tx (popped .tx s)) := by
    refine streamInv_queue i.tx.stream rfl hst rfl rfl rfl (give_bounds hbounds) ?_ ?_ ?_
    · omega
    · omega
    · rw [give_queued]
      intro c hc
      refine i.tx.stream.queued_pool c ?_
      rw [queued_pop (i.bounds .tx) hocc]
      exact List.mem_cons_of_mem _ hc
  have hlast : (give .tx (popped .tx s)).lastBlockFlag = false := hl
  have hstate : (give .tx (popped .tx s)).tx.state = s.tx.state := rfl
  rw [hlast, hstate, Bool.false_or]
  refine ⟨streamInv_congr (s := give .tx (popped .tx s)) rfl rfl hstream, ?_, ?_, ?_, i.tx.idle,
    i.tx.wait⟩
  · change flowTrue .tx (give .tx (popped .tx s)) + occ .tx (give .tx (popped .tx s)) =
      s.qcap .tx
    omega
  · exact fun h => (of_decide_eq_true h).1
  · intro h
    change decide _ = true ↔ occ .tx (give .tx (popped .tx s)) = 0
    have hs : s.tx.state = .stopping := h
    simp [hs]

/-! ### RX_DONE -/

theorem Inv.active_pool {s : State} (i : Inv s) (h : s.rx.armed = true) :
    PoolHandle s s.rx.active.h :=
  ⟨i.rx.stream.active_iff.2 h, i.rx.active, i.rx.stream.active_fits⟩

/-- An armed RX stream is RUNNING (R41 items 1 and 9). -/
theorem Inv.rx_running {s : State} (i : Inv s) (h : s.rx.armed = true) : s.rx.state = .running :=
  (i.rx.stream.armed_iff.1 h).resolve_right i.rx.not_stopping

theorem inv_reloaded {nb : Handle} {s : State} (i : Inv s) (h : s.rx.armed = true)
    (hnb : PoolHandle s nb) : Inv (reloaded nb s) := by
  refine inv_of_rx i rfl ⟨rfl, nofun, fun _ => ⟨rfl, rfl, rfl, rfl, rfl, rfl, rfl, rfl⟩⟩
    ?_ i.periph rfl
  exact rxInv_armed i.rx rfl ⟨rfl, rfl, rfl, rfl, rfl, rfl⟩ (i.rx_running h) h hnb rfl rfl

/-- The delivery of a completed Block keeps the invariants, whatever becomes of it (R211, R212). -/
theorem inv_rxDeliver {b : Block} {s : State} (i : Inv s) (hb : PoolHandle s b.h)
    (hst : s.rx.state ≠ .notReady) : Inv (rxDeliver b id s) := by
  rcases rxDeliver_cases b id s with ⟨hp, he⟩ | ⟨_, _, he⟩ | ⟨_, _, he⟩ <;> rw [he]
  · rcases push_cases (i.bounds .rx) b with ⟨hn, _⟩ | ⟨_, hocc⟩
    · rw [hn] at hp
      cases hp
    · exact inv_delivered i hb hocc hst
  · exact inv_unread (s := s) rfl i
  · exact inv_fault .rx _ (inv_record _ i)

theorem inv_rxDoneRunning {s : State} (i : Inv s) (h : s.rx.armed = true) :
    Inv (rxDoneRunning s) := by
  rcases rxDoneRunning_cases s with ⟨s1, ha, he⟩ | ⟨nb, s1, ha, he⟩ <;> rw [he]
  · exact inv_fault .rx _ (inv_unread (ask_poolChange ha).unread i)
  · obtain ⟨hc, hnb, -, -⟩ := ask_block ha
    have i1 := inv_unread hc.unread i
    have h1 : s1.rx.armed = true := by rwa [hc.eq]
    have hrun := i1.rx_running h1
    refine inv_rxDeliver (inv_reloaded i1 h1 ?_) (i1.active_pool h1) ?_
    · rwa [PoolHandle, hc.par]
    · change s1.rx.state ≠ .notReady
      rw [hrun]
      decide

/-! ### TX_DONE -/

theorem drainEnd_sent_unread (s : State) : Unread (drainEnd (sent s)) (drainEnd s) := by
  rw [drainEnd, drainEnd, disable_eq, disable_eq, sent_eq]
  rfl

theorem faultOne_sent_unread (c : FaultCause) (s : State) :
    Unread (faultOne .tx c (sent s)) (faultOne .tx c s) := by
  rw [faultOne_eq, faultOne_eq, sent_eq]
  rfl

theorem inv_setActive_tx {b : Block} {s : State} (i : Inv s) (h : s.tx.armed = true)
    (hnull : b.h ≠ NULL) (hfit : b.h.fits s.par.blkW) : Inv (setActive .tx b s) := by
  refine inv_of_tx i rfl ⟨rfl, fun _ => ⟨rfl, rfl, rfl⟩, nofun⟩ ?_ i.periph rfl
  exact txInv_armed i.tx rfl ⟨rfl, rfl, rfl, rfl, rfl, rfl⟩ (i.tx.stream.armed_iff.1 h) h hnull
    hfit i.tx.last i.tx.last_empty i.tx.idle fun hw => ⟨(i.tx.wait hw).1, (i.tx.wait hw).2.2⟩

/-- The queue was found empty: the drain ends, the filler goes out, or the stream faults (R217). -/
theorem inv_txEmpty {s : State} (i : Inv s) (h : s.tx.armed = true) : Inv (txEmpty (sent s)) := by
  unfold txEmpty
  split
  · exact inv_unread (drainEnd_sent_unread s) (inv_drainEnd i)
  · split
    · have hu : Unread (txSend { h := (sent s).par.filler, sz := (sent s).fillerSize }
          { sent s with underrun := true })
          (setActive .tx { h := s.par.filler, sz := (sent s).fillerSize } s) := by
        rw [sent_eq]
        rfl
      exact inv_unread hu (inv_setActive_tx i h i.par.2.2.1 i.par.2.2.2)
    · exact inv_couple .rx (inv_unread (faultOne_sent_unread _ s) (inv_faultOne .tx _ i))

/-- The next Block goes out (R215). -/
theorem inv_txNext {s : State} (i : Inv s) (h : s.tx.armed = true)
    (hl : s.lastBlockFlag = false) (hne : s.tx.head ≠ s.tx.tail) :
    Inv (txNext (memRead .tx s.tx.tail s) (popped .tx (sent s))) := by
  have hocc : 0 < occ .tx s := Nat.pos_of_ne_zero fun hz =>
    hne ((occ_eq_zero_iff (i.bounds .tx)).1 hz)
  have hst : s.tx.state ≠ .notReady := by
    rcases i.tx.stream.armed_iff.1 h with hs | hs <;> rw [stream_tx] at hs <;> simp [hs]
  have hq : queued .tx s = memRead .tx s.tx.tail s :: queued .tx (popped .tx s) :=
    queued_pop (i.bounds .tx) hocc
  obtain ⟨hnull, -, hfit⟩ : PoolHandle s (memRead .tx s.tx.tail s).h :=
    i.tx.stream.queued_pool _ (by rw [hq]; exact List.mem_cons_self)
  have hu : Unread (txNext (memRead .tx s.tx.tail s) (popped .tx (sent s)))
      (setActive .tx (memRead .tx s.tx.tail s) (markLast (give .tx (popped .tx s)))) := by
    rw [txNext, markLast_eq, markLast_eq, sent_eq]
    rfl
  refine inv_unread hu (inv_setActive_tx (inv_advanced i hl hocc hst) ?_ hnull ?_)
  · rw [markLast_eq]
    exact h
  · rw [markLast_eq]
    exact hfit

theorem inv_txDoneOk {s : State} (i : Inv s) (h : s.tx.armed = true) : Inv (txDoneOk s) := by
  rcases txDoneOk_cases s with ⟨_, he⟩ | ⟨_, _, he⟩ | ⟨hl, hne, he⟩ <;> rw [he]
  · exact inv_unread (drainEnd_sent_unread s) (inv_drainEnd i)
  · exact inv_txEmpty i h
  · exact inv_txNext i h hl hne

end Sys2Proof.Machine
end

section
/-! Every step keeps the invariants of 10_state.md R41: the operations, the internal steps, and the
step (O12). -/

namespace Sys2Proof.Machine

/-! ### The operations -/

/-- An operation changes its targets one after another: what holds of one change from a state that
meets the invariants holds of all together, if a change leaves the other streams alone. `P` is what
the operation's check says of each target. -/
theorem foldl_targets {R : State → State → Prop} (hrefl : ∀ u, R u u)
    (htrans : ∀ {u v w}, R u v → R v w → R u w) {P : Stream → Prop} {f : State → Dir → State}
    (hf : ∀ u d, Inv u → P (u.stream d) → Inv (f u d) ∧ R u (f u d))
    (hother : ∀ u d e, Inv u → e ≠ d → (f u d).stream e = u.stream e) {T : List Dir}
    (hT : T.Nodup) {s : State} (i : Inv s) (hP : ∀ d ∈ T, P (s.stream d)) :
    Inv (T.foldl f s) ∧ R s (T.foldl f s) := by
  induction T generalizing s with
  | nil => exact ⟨i, hrefl s⟩
  | cons d T ih =>
    obtain ⟨hd, hnodup⟩ := List.nodup_cons.1 hT
    obtain ⟨i1, h1⟩ := hf s d i (hP d List.mem_cons_self)
    have hrest : ∀ e ∈ T, P ((f s d).stream e) := fun e he => by
      rw [hother s d e i fun hed => hd (hed ▸ he)]
      exact hP e (List.mem_cons_of_mem _ he)
    obtain ⟨i2, h2⟩ := ih hnodup i1 hrest
    exact ⟨i2, htrans h1 h2⟩

/-- The invariants part of `foldl_targets`. -/
theorem inv_foldl_targets {P : Stream → Prop} {f : State → Dir → State}
    (hf : ∀ u d, Inv u → P (u.stream d) → Inv (f u d))
    (hother : ∀ u d e, Inv u → e ≠ d → (f u d).stream e = u.stream e) {T : List Dir}
    (hT : T.Nodup) {s : State} (i : Inv s) (hP : ∀ d ∈ T, P (s.stream d)) :
    Inv (T.foldl f s) :=
  (foldl_targets (R := fun _ _ => True) (fun _ => trivial) (fun _ _ => trivial)
    (fun u d j hd => ⟨hf u d j hd, trivial⟩) hother hT i hP).1

theorem stopStream_stream_ne {d e : Dir} {s : State} (i : Inv s) (he : e ≠ d) :
    (stopStream d s).stream e = s.stream e := by
  cases d
  · rw [stopStream_rx (i.bounds .rx)]
    cases e
    · exact absurd rfl he
    · rfl
  · rw [stopStream_tx (i.bounds .tx)]
    cases e
    · rfl
    · exact absurd rfl he

theorem prepareOne_stream_ne {d e : Dir} {s : State} (i : Inv s) (he : e ≠ d) :
    (prepareOne d s).stream e = s.stream e := by
  cases d
  · rw [prepareOne_rx (i.bounds .rx)]
    cases e
    · exact absurd rfl he
    · rfl
  · rw [prepareOne_tx (i.bounds .tx)]
    cases e
    · rfl
    · exact absurd rfl he

theorem configureOne_stream_ne {d e : Dir} {c : Cfg} {s : State} (i : Inv s) (he : e ≠ d) :
    (configureOne d c s).stream e = s.stream e := by
  rw [configureOne_eq, storeCfg, ← prepareOne_stream_ne i he]
  split <;> simp only [setState, setCfg, upd_stream_ne he]

theorem drainOne_stream_ne {d e : Dir} {s : State} (i : Inv s) (he : e ≠ d) :
    (drainOne d s).stream e = s.stream e := by
  cases d
  · exact stopStream_stream_ne i he
  · have hrx : (drainTx s).rx = s.rx := by
      unfold drainTx
      rw [abortWrite_eq]
      rfl
    cases e
    · exact hrx
    · exact absurd rfl he

/-- A stream in READY, NOT_READY or ERROR is unarmed (R41 item 1). -/
theorem Inv.unarmed {s : State} (i : Inv s) (d : Dir)
    (h : (s.stream d).state ≠ .running ∧ (s.stream d).state ≠ .stopping) :
    (s.stream d).armed = false :=
  (i.streamInv d).unarmed h.1 h.2

theorem configurable_off {q : StreamState} (h : configurable q = true) :
    q ≠ .running ∧ q ≠ .stopping := by
  cases q <;> simp_all [configurable]

theorem legal_prepare_off {q : StreamState} (h : legal .prepare q = true) :
    q ≠ .running ∧ q ≠ .stopping := by
  cases q <;> simp_all [legal]

theorem inv_drainOne {d : Dir} {s : State} (i : Inv s)
    (h : legal .drain (s.stream d).state = true) : Inv (drainOne d s) := by
  cases d
  · exact inv_stopStream .rx i
  · exact inv_drainTx i (of_decide_eq_true h)

/-- A TRIGGER command keeps the invariants if the change of each target does. -/
theorem inv_trigger {x : Trigger} {T : List Dir} {f : State → Dir → State} {s t : State}
    (i : Inv s) (hT : T.Nodup)
    (hf : ∀ u d, Inv u → legal x (u.stream d).state = true → Inv (f u d))
    (hother : ∀ u d e, Inv u → e ≠ d → (f u d).stream e = u.stream e)
    (h : (if allLegal x T s then .next (respond .cmd .ok (T.foldl f s))
      else .next (respond .cmd .invalidState s) : Host.Outcome State Fault Refusal) = .next t) :
    Inv t := by
  rcases trigger_cases h with ⟨hl, rfl⟩ | rfl
  · exact inv_record _ (inv_foldl_targets (P := fun a => legal x a.state = true) hf hother hT i hl)
  · exact inv_record _ i

/-- The accept step of READ (R241). -/
theorem inv_read {s : State} (i : Inv s) (h : s.rx.state ≠ .notReady) :
    Inv { s with rdTimer := s.rx.cfg.timeout, rdPhase := .wait } :=
  inv_of_rx i rfl ⟨rfl, nofun, fun _ => ⟨rfl, rfl, rfl, rfl, rfl, rfl, rfl, rfl⟩⟩
    ⟨streamInv_congr (s := s) rfl rfl i.rx.stream, i.rx.flow, i.rx.not_stopping, i.rx.active,
      nofun, fun _ => h⟩ i.periph rfl

theorem wired_fits (w : Nat) (h : Handle) : (h.wired w).fits w :=
  Nat.mod_lt _ (Nat.two_pow_pos w)

/-- The accept step of WRITE (R246): its handle passed the check, its wires are BLK_W wide. -/
theorem inv_write {blk : Handle} {size : Size} {s : State} (i : Inv s)
    (hst : s.tx.state = .ready ∨ s.tx.state = .running)
    (hargs : writeArgsBad (blk.wired s.par.blkW) size s = false) :
    Inv { s with
      wrH := blk.wired s.par.blkW, wrSz := size, wrTimer := s.tx.cfg.timeout,
      wrPhase := .wait } := by
  simp only [writeArgsBad, Bool.or_eq_false_iff, decide_eq_false_iff_not] at hargs
  obtain ⟨⟨⟨-, -⟩, hnull⟩, hfill⟩ := hargs
  refine inv_of_tx i rfl ⟨rfl, fun _ => ⟨rfl, rfl, rfl⟩, nofun⟩
    ⟨streamInv_congr (s := s) rfl rfl i.tx.stream, i.tx.flow, i.tx.last, i.tx.last_empty,
      nofun, fun _ => ⟨⟨hnull, hfill, wired_fits _ _⟩, ?_⟩⟩ i.periph rfl
  change s.tx.state ≠ .notReady ∧ s.tx.state ≠ .stopping
  rcases hst with hst | hst <;> simp [hst]

/-- Every operation keeps the invariants (R41). -/
theorem inv_exec {i : Instr} {s t : State} (hs : Inv s) (h : exec i s = .next t) : Inv t := by
  cases i with
  | configure dir w0 w1 w2 w3 w4 =>
    rcases configure_cases h with ⟨hl, rfl⟩ | ⟨k, rfl⟩
    · refine inv_record _ (inv_foldl_targets (P := fun a => configurable a.state = true)
        (fun u d iu hd => ?_) (fun u d e iu he => configureOne_stream_ne iu he)
        (addressed_nodup dir) hs hl)
      exact inv_configureOne d _ iu (iu.unarmed d (configurable_off hd))
    · exact inv_record _ hs
  | triggerStart dir => exact inv_start hs h
  | triggerStop dir =>
    exact inv_trigger hs (targets_nodup dir s) (fun u d iu _ => inv_stopStream d iu)
      (fun u d e iu he => stopStream_stream_ne iu he) h
  | triggerDrain dir =>
    exact inv_trigger hs (targets_nodup dir s) (fun u d iu hd => inv_drainOne iu hd)
      (fun u d e iu he => drainOne_stream_ne iu he) h
  | triggerDrop dir =>
    exact inv_trigger hs (targets_nodup dir s) (fun u d iu _ => inv_stopStream d iu)
      (fun u d e iu he => stopStream_stream_ne iu he) h
  | triggerPrepare dir =>
    exact inv_trigger hs (targets_nodup dir s)
      (fun u d iu hd => inv_prepareOne d iu (iu.unarmed d (legal_prepare_off hd)))
      (fun u d e iu he => prepareOne_stream_ne iu he) h
  | status dir =>
    obtain ⟨r, _, rfl⟩ := status_cases h
    exact inv_record _ hs
  | read =>
    rcases read_cases h with rfl | ⟨hst, rfl⟩ | rfl
    · exact inv_record _ hs
    · exact inv_read hs hst
    · exact inv_env rfl hs
  | write blk size =>
    rcases write_cases h with ⟨k, _, rfl⟩ | ⟨hst, hargs, rfl⟩ | rfl
    · exact inv_record _ hs
    · exact inv_write hs hst hargs
    · exact inv_env rfl hs
  | teardown =>
    obtain ⟨u, hu, -, rfl⟩ := teardown_eq h
    have iu : Inv u := hu ▸ inv_teardownOne .tx (inv_teardownOne .rx hs)
    exact inv_record _ (inv_unread (s := u) rfl iu)
  | rxDone status =>
    rcases rxDone_cases h with rfl | ⟨_, rfl⟩ | ⟨_, _, hst, _⟩ | ⟨_, harm, _, rfl⟩
    · exact hs
    · exact inv_fault .rx _ hs
    · exact absurd hst hs.rx.not_stopping
    · exact inv_rxDoneRunning hs harm
  | txDone status =>
    rcases txDone_cases h with rfl | ⟨_, rfl⟩ | ⟨_, harm, rfl⟩
    · exact hs
    · exact inv_fault .tx _ hs
    · exact inv_txDoneOk hs harm
  | periphFault flags =>
    rcases periphFault_cases h with rfl | rfl | rfl
    · exact hs
    · exact inv_record _ hs
    · exact inv_couple .tx (inv_couple .rx (inv_periphOne .tx _ (inv_periphOne .rx _
        (inv_record _ hs))))

/-! ### The internal steps -/

/-- A stream in NOT_READY has nothing in view and no lag (R41 item 5). -/
theorem StreamInv.on_of_lag {d : Dir} {s : State} (i : StreamInv d s) (h : 0 < viewLag d s) :
    (s.stream d).state ≠ .notReady := fun hoff => by
  obtain ⟨-, -, hgive, -, hview⟩ := i.off hoff
  rw [viewLag, hgive, hview, subMod_self (flowMod_pos d s)] at h
  exact absurd h (lt_irrefl 0)

/-- RD_GRANT finds a Block (R242): what it takes and what it leaves. -/
theorem Inv.rdGrant_facts {s : State} (i : Inv s) (h : enabled .rdGrant s = true) :
    s.rdPhase = .wait ∧ 0 < flowView .rx s ∧ 0 < occ .rx s ∧ s.rx.head ≠ s.rx.tail := by
  simp only [enabled, Bool.and_eq_true, decide_eq_true_eq] at h
  have hle := i.rx.stream.view_le
  have hflow := i.rx.flow
  have hocc : 0 < occ .rx s := by omega
  exact ⟨h.1, h.2, hocc, fun he =>
    absurd ((occ_eq_zero_iff (i.bounds .rx)).2 he) (by omega)⟩

/-- WR_GRANT finds room (R247). -/
theorem Inv.wrGrant_facts {s : State} (i : Inv s) (h : enabled .wrGrant s = true) :
    s.wrPhase = .wait ∧ 0 < flowView .tx s ∧ occ .tx s < s.qcap .tx := by
  simp only [enabled, Bool.and_eq_true, decide_eq_true_eq] at h
  have hle := i.tx.stream.view_le
  have hflow := i.tx.flow
  exact ⟨h.1, h.2, by omega⟩

/-- The queue of RX after a grant (R242). -/
theorem rx_granted_queued {s : State} (i : Inv s) (hocc : 0 < occ .rx s) :
    queued .rx s = memRead .rx s.rx.tail s :: queued .rx (popped .rx (take .rx s)) := by
  have hq := queued_pop (take_bounds (i.bounds .rx)) (by rwa [take_occ])
  rw [take_queued] at hq
  exact hq

/-- The RD channel goes idle (R37). -/
theorem inv_rdIdle {s : State} (i : Inv s) : Inv (rdIdle s) :=
  inv_of_rx i rfl ⟨rfl, nofun, fun _ => ⟨rfl, rfl, rfl, rfl, rfl, rfl, rfl, rfl⟩⟩
    ⟨streamInv_congr (s := s) rfl rfl i.rx.stream, i.rx.flow, i.rx.not_stopping, i.rx.active,
      fun _ => rfl, nofun⟩ i.periph rfl

/-- The WR channel goes idle (R38). -/
theorem inv_wrIdle {s : State} (i : Inv s) : Inv (wrIdle s) :=
  inv_of_tx i rfl ⟨rfl, fun _ => ⟨rfl, rfl, rfl⟩, nofun⟩
    ⟨streamInv_congr (s := s) rfl rfl i.tx.stream, i.tx.flow, i.tx.last, i.tx.last_empty,
      fun _ => ⟨rfl, rfl, rfl⟩, nofun⟩ i.periph rfl

theorem wrIdle_appGives_env (h : Handle) (s : State) :
    EnvChange (wrIdle (appGives h s)) (wrIdle s) := rfl

theorem inv_rdGrant {s : State} (i : Inv s) (h : enabled .rdGrant s = true) :
    Inv (rdGrant s) := by
  obtain ⟨hwait, hview, hocc, hne⟩ := i.rdGrant_facts h
  have hle := i.rx.stream.view_le
  have hfl := i.rx.stream.flow_le
  have hflow := i.rx.flow
  have hbounds := popped_bounds (take_bounds (i.bounds .rx))
  have hocc' : occ .rx (popped .rx (take .rx s)) + 1 = occ .rx s := by
    rw [popped_occ (take_bounds (i.bounds .rx)) (by rwa [take_occ]), take_occ]
  have htrue : flowTrue .rx (popped .rx (take .rx s)) + 1 = flowTrue .rx s := by
    rw [popped_flowTrue, take_flowTrue (by omega)]
  have hview' : flowView .rx (popped .rx (take .rx s)) + 1 = flowView .rx s := by
    rw [popped_flowView, take_flowView hview]
  have hstream : StreamInv .rx (popped .rx (take .rx s)) := by
    refine streamInv_queue i.rx.stream rfl (i.rx.wait hwait) rfl rfl rfl hbounds (by omega)
      (by omega) fun b hb => i.rx.stream.queued_pool b ?_
    rw [rx_granted_queued i hocc]
    exact List.mem_cons_of_mem _ hb
  have hqueue : Inv (popped .rx (take .rx s)) :=
    inv_of_rx i rfl ((sideSame_upd .rx _ s).trans (sideSame_upd .rx _ _))
      ⟨hstream, by omega, i.rx.not_stopping, i.rx.active, i.rx.idle, i.rx.wait⟩ i.periph rfl
  rw [rdGrant_of_ne hne]
  exact inv_record _ (inv_env rfl (inv_rdIdle hqueue))

/-- WR_GRANT queues the latched Block (R247). -/
theorem wrGrant_of_room {s : State} (i : Inv s) (h : occ .tx s < s.qcap .tx) :
    wrGrant s = respond .wr .ok
      (wrIdle (appGives s.wrH (pushed .tx (latchedBlock s) (take .tx s)))) := by
  rcases wrGrant_cases s with ⟨_, he⟩ | ⟨hn, _⟩
  · exact he
  · have hfull := (push_full (take_bounds (i.bounds .tx)) _).1 hn
    rw [take_occ] at hfull
    exact absurd hfull (Nat.ne_of_lt h)

theorem tx_granted_queued {s : State} (i : Inv s) (h : occ .tx s < s.qcap .tx) :
    queued .tx (pushed .tx (latchedBlock s) (take .tx s)) = queued .tx s ++ [latchedBlock s] := by
  rw [pushed_queued (take_bounds (i.bounds .tx)) _ (by rwa [take_occ]), take_queued]

theorem inv_wrGrant {s : State} (i : Inv s) (h : enabled .wrGrant s = true) :
    Inv (wrGrant s) := by
  obtain ⟨hwait, hview, hocc⟩ := i.wrGrant_facts h
  obtain ⟨hpool, hon, hns⟩ := i.tx.wait hwait
  have hle := i.tx.stream.view_le
  have hfl := i.tx.stream.flow_le
  have hflow := i.tx.flow
  have hbounds := pushed_bounds (take_bounds (i.bounds .tx)) (latchedBlock s)
  have hocc' : occ .tx (pushed .tx (latchedBlock s) (take .tx s)) = occ .tx s + 1 := by
    rw [pushed_occ (take_bounds (i.bounds .tx)) _ (by rwa [take_occ]), take_occ]
  have htrue : flowTrue .tx (pushed .tx (latchedBlock s) (take .tx s)) + 1 = flowTrue .tx s := by
    rw [pushed_flowTrue, take_flowTrue (by omega)]
  have hview' : flowView .tx (pushed .tx (latchedBlock s) (take .tx s)) + 1 = flowView .tx s := by
    rw [pushed_flowView, take_flowView hview]
  have hstream : StreamInv .tx (pushed .tx (latchedBlock s) (take .tx s)) := by
    refine streamInv_queue i.tx.stream rfl hon rfl rfl rfl hbounds (by omega) (by omega) ?_
    rw [tx_granted_queued i hocc]
    intro b hb
    rcases List.mem_append.1 hb with hb | hb
    · exact i.tx.stream.queued_pool b hb
    · rw [List.mem_singleton.1 hb]
      exact hpool
  have hcap : (pushed .tx (latchedBlock s) (take .tx s)).qcap .tx = s.qcap .tx := rfl
  have hqueue : Inv (pushed .tx (latchedBlock s) (take .tx s)) :=
    inv_of_tx i rfl ((sideSame_upd .tx _ s).trans (sideSame_upd .tx _ _))
      ⟨hstream, by omega, i.tx.last, fun hst => absurd hst hns, i.tx.idle, i.tx.wait⟩ i.periph rfl
  rw [wrGrant_of_room i hocc]
  exact inv_record _ (inv_env (wrIdle_appGives_env _ _) (inv_wrIdle hqueue))

theorem inv_rdTimeout {s : State} (i : Inv s) (h : enabled .rdTimeout s = true) :
    Inv (rdTimeout s) := by
  simp only [enabled, Bool.and_eq_true, decide_eq_true_eq] at h
  obtain ⟨⟨-, htimer⟩, -⟩ := h
  exact inv_record _ <| inv_of_rx i rfl
    ⟨rfl, nofun, fun _ => ⟨rfl, rfl, rfl, rfl, rfl, rfl, rfl, rfl⟩⟩
    ⟨streamInv_congr (s := s) rfl rfl i.rx.stream, i.rx.flow, i.rx.not_stopping, i.rx.active,
      fun _ => htimer, nofun⟩ i.periph rfl

theorem inv_wrTimeout {s : State} (i : Inv s) (h : enabled .wrTimeout s = true) :
    Inv (wrTimeout s) := by
  simp only [enabled, Bool.and_eq_true, decide_eq_true_eq] at h
  obtain ⟨⟨-, htimer⟩, -⟩ := h
  exact inv_record _ <| inv_of_tx i rfl ⟨rfl, fun _ => ⟨rfl, rfl, rfl⟩, nofun⟩
    ⟨streamInv_congr (s := s) rfl rfl i.tx.stream, i.tx.flow, i.tx.last, i.tx.last_empty,
      fun _ => ⟨htimer, rfl, rfl⟩, nofun⟩ i.periph rfl

theorem tickTimer_idle {p : Phase} (h : p = .idle) (t : Ticks) : tickTimer p t = t := by
  simp [tickTimer, h]

theorem inv_tick {s : State} (i : Inv s) : Inv (tick s) := by
  refine ⟨i.par, ⟨streamInv_congr (s := s) rfl rfl i.rx.stream, i.rx.flow, i.rx.not_stopping,
    i.rx.active, fun hp => ?_, i.rx.wait⟩, ⟨streamInv_congr (s := s) rfl rfl i.tx.stream,
    i.tx.flow, i.tx.last, i.tx.last_empty, fun hp => ?_, i.tx.wait⟩, i.periph, i.duplex⟩
  · exact (tickTimer_idle hp s.rdTimer).trans (i.rx.idle hp)
  · obtain ⟨htimer, hh, hsz⟩ := i.tx.idle hp
    exact ⟨(tickTimer_idle hp s.wrTimer).trans htimer, hh, hsz⟩

/-- SYNC moves the view on by its choice (R151): the crossing changes nothing of it (R86). -/
theorem sync_eq (d : Dir) (j : Nat) (s : State) :
    sync d j s = s.upd d fun t => { t with giveView := (t.giveView + j) % flowMod d s } := by
  unfold sync
  congr 1
  funext t
  have hlt : (t.giveView + j) % flowMod d s < 2 ^ cntW (s.qcap d) :=
    Nat.mod_lt _ (flowMod_pos d s)
  rw [cross_of_lt hlt]

theorem sync_par (d : Dir) (j : Nat) (s : State) : (sync d j s).par = s.par := by
  rw [sync_eq, upd_par]

theorem sync_flowTrue (d : Dir) (j : Nat) (s : State) :
    flowTrue d (sync d j s) = flowTrue d s := by
  rw [flowTrue, flowMod_congr (sync_par d j s), initFlow_congr (sync_par d j s), sync_eq]
  simp [flowTrue]

theorem sync_occ (d : Dir) (j : Nat) (s : State) : occ d (sync d j s) = occ d s := by
  rw [occ, sync_eq]
  simp [occ]

theorem sync_queued (d : Dir) (j : Nat) (s : State) : queued d (sync d j s) = queued d s := by
  refine queued_eq_of (sync_par d j s) ?_ ?_ ?_ <;> rw [sync_eq] <;> simp

/-- The view rises by the choice of SYNC, up to the counter itself (R151). -/
theorem sync_flowView {d : Dir} {j : Nat} {s : State} (h : flowView d s ≤ flowTrue d s)
    (hj : j ≤ viewLag d s) : flowView d (sync d j s) = flowView d s + j := by
  have hlt := flowTrue_lt d s
  have hv := subMod_add_modEq (flowMod_pos d s)
    (initFlow d s + (s.stream d).giveView) (s.stream d).takeCnt
  rw [viewLag_eq h] at hj
  rw [flowView, flowMod_congr (sync_par d j s), initFlow_congr (sync_par d j s), sync_eq]
  simp only [upd_stream]
  refine subMod_unique (by omega) ?_
  calc flowView d s + j + (s.stream d).takeCnt
      = flowView d s + (s.stream d).takeCnt + j := by omega
    _ ≡ initFlow d s + (s.stream d).giveView + j [MOD flowMod d s] := hv.add_right j
    _ = initFlow d s + ((s.stream d).giveView + j) := by omega
    _ ≡ initFlow d s + ((s.stream d).giveView + j) % flowMod d s [MOD flowMod d s] :=
      (Nat.ModEq.refl _).add (Nat.mod_modEq _ _).symm

theorem sync_bounds {d : Dir} {s : State} (h : StreamBounds d s) (j : Nat) :
    StreamBounds d (sync d j s) := by
  have hm : flowMod d (sync d j s) = flowMod d s := flowMod_congr (sync_par d j s)
  have hq : (sync d j s).qcap d = s.qcap d := qcap_congr (sync_par d j s)
  constructor <;> (try simp only [hm, hq]) <;> simp only [sync_eq, upd_stream]
  exacts [h.head_le, h.tail_le, h.give_lt, h.take_lt, Nat.mod_lt _ (flowMod_pos d s), h.slots_wf,
    h.slots_le]

theorem sync_streamInv {d : Dir} {j : Nat} {s : State} (i : StreamInv d s) (h1 : 1 ≤ j)
    (h2 : j ≤ viewLag d s) : StreamInv d (sync d j s) := by
  have hlag := viewLag_eq i.view_le
  have hview := sync_flowView i.view_le h2
  have htrue := sync_flowTrue d j s
  have hle := i.view_le
  refine streamInv_queue i (sync_par d j s) (i.on_of_lag (by omega)) ?_ ?_ ?_
    (sync_bounds i.bounds j) (by omega) (htrue ▸ i.flow_le) (by
      rw [sync_queued]
      exact i.queued_pool) <;>
  simp [sync_eq]

theorem inv_sync {d : Dir} {j : Nat} {s : State} (i : Inv s)
    (h : enabled (.sync d j) s = true) : Inv (sync d j s) := by
  simp only [enabled, Bool.and_eq_true, decide_eq_true_eq] at h
  have hstream := sync_streamInv (i.streamInv d) h.1 h.2
  have htrue := sync_flowTrue d j s
  have hocc := sync_occ d j s
  cases d
  · exact inv_of_rx i rfl ⟨rfl, nofun, fun _ => ⟨rfl, rfl, rfl, rfl, rfl, rfl, rfl, rfl⟩⟩
      ⟨hstream, by rw [htrue, hocc, i.rx.flow], i.rx.not_stopping, i.rx.active, i.rx.idle,
        i.rx.wait⟩ i.periph rfl
  · exact inv_of_tx i rfl ⟨rfl, fun _ => ⟨rfl, rfl, rfl⟩, nofun⟩
      ⟨hstream, by rw [htrue, hocc]; exact i.tx.flow, i.tx.last,
        by rw [hocc]; exact i.tx.last_empty, i.tx.idle, i.tx.wait⟩ i.periph rfl

theorem inv_hwReset {s : State} (i : Inv s) : Inv (hwReset s) :=
  inv_env (s := State.resetWith s.par) rfl (inv_resetWith i.par)

/-! ### The step -/

theorem contribute_cases {s t : State} {o : Host.Outcome State Fault Refusal}
    (h : contribute s o = .next t) :
    ∃ u, o = .next u ∧ t = { u with log := s.log ++ byKind (u.log.drop s.log.length) } := by
  cases o with
  | next u =>
    cases h
    exact ⟨u, rfl, rfl⟩
  | fault _ => cases h
  | refused _ => cases h

/-- A word is run as its operation, refused with INVALID_ARGUMENT, or discarded (R108, R116). -/
theorem runWord_cases {m : Stimulus} {s t : State}
    (hm : (∃ b, m = .command b) ∨ ∃ ew, m = .event ew) (h : runMove m s = .next t) :
    (∃ i u, exec i s = .next u ∧
      t = { u with log := s.log ++ byKind (u.log.drop s.log.length) } ∧
      ∀ blk size, i = .write blk size →
        ∃ b, m = .command b ∧ decodeCommand b = .ok (.write blk size)) ∨
    (∃ ch, t = respond ch .invalidArgument s) ∨ t = s := by
  rcases hm with ⟨b, rfl⟩ | ⟨ew, rfl⟩
  · cases hd : decodeCommand b with
    | ok i =>
      have hrun : contribute s (exec i s) = .next t := by
        rw [← h, runMove, runCommand, hd]
      obtain ⟨u, hu, rfl⟩ := contribute_cases hrun
      refine .inl ⟨i, u, hu, rfl, ?_⟩
      rintro blk size rfl
      exact ⟨b, rfl, hd⟩
    | error e =>
      rw [runMove, runCommand, hd] at h
      cases h
      exact .inr (.inl ⟨_, rfl⟩)
  · cases hd : decodeEvent ew with
    | ok i =>
      have hrun : contribute s (exec i s) = .next t := by
        rw [← h, runMove, runEvent, hd]
      obtain ⟨u, hu, rfl⟩ := contribute_cases hrun
      refine .inl ⟨i, u, hu, rfl, ?_⟩
      rintro blk size rfl
      unfold decodeEvent at hd
      split at hd
      · split at hd <;> cases hd
      · split at hd
        · split at hd <;> cases hd
        · split at hd
          · split at hd <;> cases hd
          · cases hd
    | error e =>
      rw [runMove, runEvent, hd] at h
      cases h
      exact .inr (.inr rfl)

theorem inv_word {m : Stimulus} {s t : State} (i : Inv s)
    (hm : (∃ b, m = .command b) ∨ ∃ ew, m = .event ew) (h : runMove m s = .next t) : Inv t := by
  rcases runWord_cases hm h with ⟨k, u, hu, rfl, -⟩ | ⟨ch, rfl⟩ | rfl
  · exact inv_env (s := u) rfl (inv_exec i hu)
  · exact inv_record _ i
  · exact i

/-- Every enabled move keeps the invariants. -/
theorem inv_runMove {m : Stimulus} {s t : State} (i : Inv s) (he : enabled m s = true)
    (h : runMove m s = .next t) : Inv t := by
  cases m with
  | command b => exact inv_word i (.inl ⟨b, rfl⟩) h
  | event ew => exact inv_word i (.inr ⟨ew, rfl⟩) h
  | rdGrant => cases h; exact inv_rdGrant i he
  | rdTimeout => cases h; exact inv_rdTimeout i he
  | wrGrant => cases h; exact inv_wrGrant i he
  | wrTimeout => cases h; exact inv_wrTimeout i he
  | tick => cases h; exact inv_tick i
  | appAlloc b => cases h; exact inv_env rfl i
  | appFree b => cases h; exact inv_env rfl i
  | sync d j => cases h; exact inv_sync i he
  | reset => cases h; exact inv_hwReset i

theorem pick_enabled {s : State} {l r : List Stimulus} {m : Stimulus}
    (h : pick s l = some (m, r)) : enabled m s = true := by
  induction l generalizing r with
  | nil => cases h
  | cons x l ih =>
    unfold pick at h
    split at h
    · rename_i hx
      cases h
      exact hx
    · split at h
      · cases h
      · rename_i hp
        cases h
        exact ih hp

/-- The synchroniser's own choice lies within the lag (R151). -/
theorem drawnJ_enabled {d : Dir} {s : State} (h : 0 < viewLag d s) :
    enabled (.sync d (drawnJ d s)) s = true := by
  have hmod := Nat.mod_lt (Config.syncDraw s.draws) h
  have hj : 1 ≤ drawnJ d s ∧ drawnJ d s ≤ viewLag d s := by
    unfold drawnJ
    omega
  simp [enabled, hj]

/-- The hardware's own move is enabled, and no command. -/
theorem ownMove_enabled {s : State} {m : Stimulus} (h : ownMove s = some m) :
    enabled m s = true ∧ ∀ b, m ≠ .command b := by
  unfold ownMove at h
  split at h
  · cases h
    exact ⟨by assumption, nofun⟩
  split at h
  · cases h
    exact ⟨by assumption, nofun⟩
  split at h
  · cases h
    exact ⟨by assumption, nofun⟩
  split at h
  · cases h
    exact ⟨by assumption, nofun⟩
  split at h
  · cases h
    exact ⟨drawnJ_enabled (by assumption), nofun⟩
  split at h
  · cases h
    exact ⟨drawnJ_enabled (by assumption), nofun⟩
  · cases h

/-- `s'` is the state in which the step from `s` runs the move `m`: the move is in the history, and
it was enabled; a command was presented. -/
structure Launched (m : Stimulus) (s s' : State) : Prop where
  eq : s' = { s with log := s.log ++ [.op m], pending := s'.pending, draws := s'.draws }
  enabled : enabled m s' = true
  picked : ∀ b, m = .command b → ∃ rest, pick s s.pending = some (m, rest)

/-- Whether a move is enabled depends neither on the history nor on the moves presented. -/
theorem enabled_launched {m : Stimulus} {s s' : State}
    (h : s' = { s with log := s.log ++ [.op m], pending := s'.pending, draws := s'.draws }) :
    enabled m s' = enabled m s := by
  rw [h]
  cases m <;> rfl

/-- All that a step can do: wait, or run one enabled move (20_memory.md R80). -/
theorem step_cases {s t : State} (h : step s = .next t) :
    t = s ∨ ∃ m s', Launched m s s' ∧ runMove m s' = .next t := by
  unfold step at h
  split at h
  · cases h
  · unfold advance at h
    split at h
    · rename_i m rest hp
      have heq : taken m rest s = { s with
          log := s.log ++ [.op m], pending := (taken m rest s).pending,
          draws := (taken m rest s).draws } := rfl
      refine .inr ⟨m, _, ⟨heq, ?_, fun _ _ => ⟨rest, hp⟩⟩, h⟩
      rw [enabled_launched heq]
      exact pick_enabled hp
    · split at h
      · rename_i m hown
        obtain ⟨hen, hcmd⟩ := ownMove_enabled hown
        have heq : ownTaken m s = { s with
            log := s.log ++ [.op m], pending := (ownTaken m s).pending,
            draws := (ownTaken m s).draws } := rfl
        refine .inr ⟨m, _, ⟨heq, ?_, fun b hb => absurd hb (hcmd b)⟩, h⟩
        rw [enabled_launched heq]
        exact hen
      · cases h
        exact .inl rfl

theorem Launched.env {m : Stimulus} {s s' : State} (h : Launched m s s') : EnvChange s' s := by
  unfold EnvChange
  conv_lhs => rw [h.eq]
  rw [h.eq]

/-- Settles O12: a step waits or runs one enabled move, and each of these keeps the invariants. -/
theorem stepKeepsInv : Obligations.StepKeepsInv := by
  unfold Obligations.StepKeepsInv
  intro s t i h
  rcases step_cases h with rfl | ⟨m, s', hl, hm⟩
  · exact i
  · exact inv_runMove (inv_env hl.env i) hl.enabled hm

end Sys2Proof.Machine
end

section
/-! Blocks change owners and are never lost (10_state.md R57, 95_test_vectors.md E1, E5): what each
procedure obtains, what it gives up, and what stays with the stream. -/

namespace Sys2Proof.Machine

/-! ### The Blocks of a stream -/

/-- The handles stream `d` owns: in flight and queued (R57). -/
def ownedBy (d : Dir) (s : State) : List Handle := inFlight d s ++ queuedHandles d s

theorem owned_eq (s : State) : owned s = ownedBy .rx s ++ ownedBy .tx s ++ s.app := by
  simp [owned, ownedBy]

theorem ownedCount_eq (d : Dir) (s : State) : ownedCount d s = (ownedBy d s).length := by
  rw [ownedCount, ownedBy, inFlight, List.length_append, queuedHandles, List.length_map]
  by_cases h : (s.stream d).active.h = NULL ∨ (s.stream d).active.h = s.par.filler
  · rw [if_neg (by tauto), if_pos h, List.length_nil]
    omega
  · rw [if_pos (by tauto), if_neg h, List.length_singleton]
    omega

theorem inFlight_of_active {d : Dir} {s t : State} (hp : t.par = s.par)
    (ha : (t.stream d).active = (s.stream d).active) : inFlight d t = inFlight d s := by
  rw [inFlight, inFlight, hp, ha]

theorem inFlight_null {d : Dir} {s : State} (h : (s.stream d).active = Block.null) :
    inFlight d s = [] := by
  rw [inFlight, h, if_pos (.inl rfl)]

theorem inFlight_pool {d : Dir} {s : State} (h : PoolHandle s (s.stream d).active.h) :
    inFlight d s = [(s.stream d).active.h] := by
  rw [inFlight, if_neg]
  rintro (hn | hf)
  · exact h.1 hn
  · exact h.2.1 hf

/-- The registers that hold a stream's Blocks are as before. -/
structure HoldSame (a b : Stream) : Prop where
  active : b.active = a.active
  slots : b.slots = a.slots
  head : b.head = a.head
  tail : b.tail = a.tail

theorem HoldSame.of_eq {a b : Stream} (h : b = a) : HoldSame a b := by
  subst h
  exact ⟨rfl, rfl, rfl, rfl⟩

theorem queuedHandles_of {d : Dir} {s t : State} (h : queued d t = queued d s) :
    queuedHandles d t = queuedHandles d s := by
  rw [queuedHandles, queuedHandles, h]

theorem ownedBy_of_hold {d : Dir} {s t : State} (hp : t.par = s.par)
    (h : HoldSame (s.stream d) (t.stream d)) : ownedBy d t = ownedBy d s := by
  rw [ownedBy, ownedBy, inFlight_of_active hp h.active,
    queuedHandles_of (queued_eq_of hp h.slots h.head h.tail)]

/-! ### Events that move no Block -/

/-- The entry `e` records neither that stream `d` came to own a Block nor that it gave one up. -/
def Event.spares (d : Dir) (e : Event) : Prop := obtains d e = false ∧ givesUp d e = false

theorem spares_op (d : Dir) (m : Stimulus) : (Event.op m).spares d := ⟨rfl, rfl⟩

theorem spares_call {c : Call} (h : ∀ e k, c ≠ .poolFree e k) (d : Dir) :
    (Event.call c).spares d := by
  refine ⟨rfl, ?_⟩
  cases c with
  | poolFree e k => exact absurd rfl (h e k)
  | _ => rfl

theorem spares_resp {r : Response} (h : r.code ≠ .ok ∨ r.ch = .cmd) (d : Dir) :
    (Event.resp r).spares d := by
  constructor <;> rcases h with h | h <;> simp [obtains, givesUp, h]

theorem spares_busy (d e : Dir) : (Event.alloc e .busy).spares d := ⟨rfl, rfl⟩

theorem countP_of_spares {d : Dir} {l : List Event} (h : ∀ e ∈ l, e.spares d) :
    l.countP (obtains d) = 0 ∧ l.countP (givesUp d) = 0 := by
  simp only [List.countP_eq_zero, Bool.not_eq_true]
  exact ⟨fun e he => (h e he).1, fun e he => (h e he).2⟩

theorem countP_obtains_calls (d : Dir) (l : List Call) :
    (l.map Event.call).countP (obtains d) = 0 := by
  rw [List.countP_map, List.countP_eq_zero]
  intro c _
  simp [obtains]

/-- Disable frees the Block in flight (R172). -/
theorem countP_givesUp_disable (d e : Dir) (s : State) :
    ((disableTrace d s).map Event.call).countP (givesUp e) =
      if e = d then (inFlight d s).length else 0 := by
  unfold disableTrace disarmTrace inFlight
  cases d <;> cases e <;> split <;> split <;> simp [givesUp]

/-- DropQueue frees what was queued (R143). -/
theorem countP_givesUp_frees (d e : Dir) (l : List Block) :
    (freesOf d l).countP (givesUp e) = if e = d then l.length else 0 := by
  induction l with
  | nil => simp [freesOf]
  | cons b l ih =>
    rw [freesOf, List.map_cons, List.countP_cons, ← freesOf, ih]
    cases d <;> cases e <;> simp [givesUp]

theorem countP_obtains_frees (d e : Dir) (l : List Block) :
    (freesOf d l).countP (obtains e) = 0 := by
  rw [freesOf, List.countP_map, List.countP_eq_zero]
  intro c _
  simp [obtains]

theorem waitEvents_spares (d e : Dir) (s : State) : ∀ x ∈ waitEvents e s, x.spares d := by
  cases e <;> unfold waitEvents <;> dsimp only <;> split <;> intro x hx
  all_goals
    cases hx <;> first | exact spares_resp (.inl (by decide)) d | contradiction

/-! ### Moved -/

/-- From `s` to `t` stream `d` came to own the Blocks `got` and gave up others, none got lost, and
the history has as many entries for it: obtained less given up. -/
def Moved (d : Dir) (got : List Handle) (s t : State) : Prop :=
  ∃ l gone, t.log = s.log ++ l ∧ (ownedBy d t ++ gone).Perm (ownedBy d s ++ got) ∧
    l.countP (obtains d) + gone.length = l.countP (givesUp d) + got.length

theorem Moved.trans {d : Dir} {g1 g2 : List Handle} {s t u : State} (h : Moved d g1 s t)
    (g : Moved d g2 t u) : Moved d (g1 ++ g2) s u := by
  obtain ⟨l1, o1, hl1, hp1, hc1⟩ := h
  obtain ⟨l2, o2, hl2, hp2, hc2⟩ := g
  refine ⟨l1 ++ l2, o1 ++ o2, by rw [hl2, hl1, List.append_assoc], ?_, ?_⟩
  · simp only [List.perm_iff_count, List.count_append] at hp1 hp2 ⊢
    intro a
    have := hp1 a
    have := hp2 a
    omega
  · simp only [List.countP_append, List.length_append]
    omega

/-- The history grew by entries that move no Block of stream `d`, and what it owns is as before. -/
theorem Moved.of_same {d : Dir} {s t : State} {l : List Event} (hl : t.log = s.log ++ l)
    (hs : ∀ e ∈ l, e.spares d) (ho : ownedBy d t = ownedBy d s) : Moved d [] s t := by
  obtain ⟨h1, h2⟩ := countP_of_spares hs
  exact ⟨l, [], hl, by rw [ho], by simp [h1, h2]⟩

/-- The Blocks `gone` were given up and nothing else moved. -/
theorem Moved.of_released {d : Dir} {s t : State} {l : List Event} {gone : List Handle}
    (hl : t.log = s.log ++ l) (ho : (ownedBy d t ++ gone).Perm (ownedBy d s))
    (h1 : l.countP (obtains d) = 0) (h2 : l.countP (givesUp d) = gone.length) :
    Moved d [] s t :=
  ⟨l, gone, hl, by rwa [List.append_nil], by simp [h1, h2]⟩

/-- What is obtained less what is given up is what the stream owns more (E1, E5). -/
theorem Conserved.of_moved {d : Dir} {got : List Handle} {s t : State} (h : Conserved d s)
    (hm : Moved d got s t) : Conserved d t := by
  obtain ⟨l, gone, hl, hp, hc⟩ := hm
  have hlen := hp.length_eq
  simp only [Conserved, ownedCount_eq, hl, List.countP_append, List.length_append] at h hlen ⊢
  omega

/-! ### Releases -/

/-- The application's Blocks and the WR channel's handle are as before. -/
structure LatchSame (s t : State) : Prop where
  app : t.app = s.app
  phase : t.wrPhase = s.wrPhase
  handle : t.wrH = s.wrH

theorem LatchSame.refl (s : State) : LatchSame s s := ⟨rfl, rfl, rfl⟩

theorem LatchSame.trans {s t u : State} (h : LatchSame s t) (g : LatchSame t u) :
    LatchSame s u :=
  ⟨g.app.trans h.app, g.phase.trans h.phase, g.handle.trans h.handle⟩

theorem LatchSame.foldl {α : Type} {f : State → α → State} (h : ∀ u a, LatchSame u (f u a))
    (l : List α) (s : State) : LatchSame s (l.foldl f s) := by
  induction l generalizing s with
  | nil => exact .refl s
  | cons a l ih => exact (h s a).trans (ih _)

theorem LatchSame.of_transfer {s t : State} (h : TransferChange t s) : LatchSame s t := by
  rw [h.eq]
  exact ⟨rfl, rfl, rfl⟩

theorem latchSame_upd (d : Dir) (f : Stream → Stream) (s : State) : LatchSame s (s.upd d f) :=
  ⟨upd_app s d f, upd_wrPhase s d f, upd_wrH s d f⟩

/-- No stream came to own a Block, what the streams no longer own they gave up, the application's
Blocks are as before, and a WRITE that waits was waiting with the same handle. -/
structure Releases (s t : State) : Prop where
  moved : ∀ d, Moved d [] s t
  app : t.app = s.app
  wait : t.wrPhase = .wait → s.wrPhase = .wait ∧ t.wrH = s.wrH

theorem Releases.trans {s t u : State} (h : Releases s t) (g : Releases t u) : Releases s u where
  moved d := (h.moved d).trans (g.moved d)
  app := g.app.trans h.app
  wait hw := by
    obtain ⟨h1, h2⟩ := g.wait hw
    obtain ⟨h3, h4⟩ := h.wait h1
    exact ⟨h3, h2.trans h4⟩

theorem LatchSame.wait {s t : State} (h : LatchSame s t) (hw : t.wrPhase = .wait) :
    s.wrPhase = .wait ∧ t.wrH = s.wrH :=
  ⟨h.phase ▸ hw, h.handle⟩

/-- A change that touches no Block. -/
theorem Releases.of_same {s t : State} {l : List Event} (hl : t.log = s.log ++ l)
    (hs : ∀ e ∈ l, ∀ d, e.spares d) (hp : t.par = s.par)
    (hh : ∀ d, HoldSame (s.stream d) (t.stream d)) (ha : LatchSame s t) : Releases s t where
  moved d := .of_same hl (fun e he => hs e he d) (ownedBy_of_hold hp (hh d))
  app := ha.app
  wait := ha.wait

theorem Releases.refl (s : State) : Releases s s :=
  .of_same (l := []) (by simp) nofun rfl (fun _ => .of_eq rfl) (.refl s)

theorem releases_record {e : Event} (h : ∀ d, e.spares d) (s : State) :
    Releases s (record e s) :=
  .of_same (l := [e]) rfl (by simpa using h) rfl (fun d => .of_eq (record_stream e s d))
    ⟨rfl, rfl, rfl⟩

theorem releases_emit {c : Call} (h : ∀ e k, c ≠ .poolFree e k) (s : State) :
    Releases s (emit c s) :=
  releases_record (spares_call h) s

theorem releases_respond {ch : Channel} {k : Code} (h : k ≠ .ok ∨ ch = .cmd) (s : State) :
    Releases s (respond ch k s) :=
  releases_record (spares_resp h) s

/-- A change of one stream that leaves its Blocks. -/
theorem releases_upd (d : Dir) {f : Stream → Stream} (hf : ∀ a, HoldSame a (f a)) (s : State) :
    Releases s (s.upd d f) := by
  refine .of_same (l := []) (by simp) nofun (by simp) (fun e => ?_) (latchSame_upd d f s)
  by_cases he : e = d
  · subst he
    rw [upd_stream]
    exact hf _
  · rw [upd_stream_ne he]
    exact .of_eq rfl

theorem releases_setState (d : Dir) (q : StreamState) (s : State) :
    Releases s (setState d q s) := by
  refine releases_upd d (fun _ => ?_) s
  exact ⟨rfl, rfl, rfl, rfl⟩

theorem releases_setCause (d : Dir) (c : FaultCause) (s : State) :
    Releases s (setCause d c s) := by
  refine releases_upd d (fun _ => ?_) s
  exact ⟨rfl, rfl, rfl, rfl⟩

theorem releases_setCfg (d : Dir) (c : Cfg) (s : State) : Releases s (setCfg d c s) := by
  refine releases_upd d (fun _ => ?_) s
  exact ⟨rfl, rfl, rfl, rfl⟩

theorem releases_clearLoss (d : Dir) (s : State) : Releases s (clearLoss d s) :=
  .of_same (l := []) (by simp) nofun (by simp) (fun e => .of_eq (by simp))
    ⟨by simp, by simp, by simp⟩

/-- Disable frees the Block in flight (R172). -/
theorem releases_disable (d : Dir) (s : State) : Releases s (disable d s) := by
  have hlatch := LatchSame.of_transfer (transfer_disable d s)
  have hpar : (disable d s).par = s.par := (transfer_disable d s).par
  have hlog : (disable d s).log = s.log ++ (disableTrace d s).map .call := by rw [disable_eq]
  refine ⟨fun e => ?_, hlatch.app, hlatch.wait⟩
  by_cases he : e = d
  · subst he
    have hnull : ((disable e s).stream e).active = Block.null := by
      rw [disable_eq]
      cases e <;> rfl
    refine .of_released (gone := inFlight e s) hlog ?_ (countP_obtains_calls e _) ?_
    · rw [ownedBy, ownedBy, inFlight_null hnull, queuedHandles_of (disable_queued e s),
        List.nil_append]
      exact List.perm_append_comm
    · rw [countP_givesUp_disable, if_pos rfl]
  · have hstream : (disable d s).stream e = s.stream e := by
      rw [disable_eq]
      cases d <;> cases e <;> first | rfl | exact absurd rfl he
    refine .of_released (gone := []) hlog ?_ (countP_obtains_calls e _) ?_
    · rw [List.append_nil, ownedBy_of_hold hpar (.of_eq hstream)]
    · rw [countP_givesUp_disable, if_neg he, List.length_nil]

/-- DropQueue frees what is queued (R143). -/
theorem releases_dropQueue {d : Dir} {s : State} (h : StreamBounds d s) :
    Releases s (dropQueue d s) := by
  have hlog : (dropQueue d s).log = s.log ++ freesOf d (queued d s) := by rw [dropQueue_eq h]
  have hpar : (dropQueue d s).par = s.par := by
    rw [dropQueue_eq h]
    cases d <;> rfl
  have hlatch : LatchSame s (dropQueue d s) := by
    rw [dropQueue_eq h]
    cases d <;> exact ⟨rfl, rfl, rfl⟩
  refine ⟨fun e => ?_, hlatch.app, hlatch.wait⟩
  by_cases he : e = d
  · subst he
    have hactive : ((dropQueue e s).stream e).active = (s.stream e).active := by
      rw [dropQueue_eq h]
      cases e <;> rfl
    have hempty : queued e (dropQueue e s) = [] := by
      rw [queued_eq_nil_iff, occ, qcap_congr hpar, dropQueue_eq h]
      cases e <;> exact subMod_self (Nat.succ_pos _) _
    refine .of_released (gone := queuedHandles e s) hlog ?_ (countP_obtains_frees _ _ _) ?_
    · rw [ownedBy, ownedBy, inFlight_of_active hpar hactive, queuedHandles, hempty, List.map_nil,
        List.append_nil]
    · rw [countP_givesUp_frees, if_pos rfl, queuedHandles, List.length_map]
  · have hstream : (dropQueue d s).stream e = s.stream e := by
      rw [dropQueue_eq h]
      cases d <;> cases e <;> first | rfl | exact absurd rfl he
    refine .of_released (gone := []) hlog ?_ (countP_obtains_frees _ _ _) ?_
    · rw [List.append_nil, ownedBy_of_hold hpar (.of_eq hstream)]
    · rw [countP_givesUp_frees, if_neg he, List.length_nil]

/-- FlowReset answers a waiter and moves no Block (R152). -/
theorem releases_flowReset (d : Dir) (s : State) : Releases s (flowReset d s) := by
  have hpar : (flowReset d s).par = s.par := by
    cases d
    · rw [flowReset_rx]
    · rw [flowReset_tx]
  have hlog : (flowReset d s).log = s.log ++ waitEvents d s := by
    cases d
    · rw [flowReset_rx]
    · rw [flowReset_tx]
  have hhold : ∀ e, HoldSame (s.stream e) ((flowReset d s).stream e) := by
    intro e
    cases d
    · rw [flowReset_rx]
      cases e <;> exact ⟨rfl, rfl, rfl, rfl⟩
    · rw [flowReset_tx]
      cases e <;> exact ⟨rfl, rfl, rfl, rfl⟩
  refine ⟨fun e => .of_same hlog (waitEvents_spares e d s) (ownedBy_of_hold hpar (hhold e)), ?_, ?_⟩
  · cases d
    · rw [flowReset_rx]
    · rw [flowReset_tx]
  · cases d
    · rw [flowReset_rx]
      exact fun hw => ⟨hw, rfl⟩
    · rw [flowReset_tx]
      exact nofun

/-- AbortWrite answers the waiting WRITE; its Block stays the application's (R250). -/
theorem releases_abortWrite (s : State) : Releases s (abortWrite s) := by
  unfold abortWrite
  split
  · refine (releases_respond (ch := .wr) (k := .invalidState) (.inl (by decide)) s).trans ?_
    exact ⟨fun d => .of_same (l := []) (by simp [wrIdle]) nofun
      (ownedBy_of_hold rfl (.of_eq (by cases d <;> rfl))), rfl, nofun⟩
  · exact .refl s

theorem releases_stopStream {d : Dir} {s : State} (h : StreamBounds d s) :
    Releases s (stopStream d s) :=
  (releases_disable d s).trans <| (releases_dropQueue (disable_bounds h)).trans <|
    (releases_flowReset d _).trans <| (releases_setCause d _ _).trans <| releases_setState d _ _

theorem releases_prepareOne {d : Dir} {s : State} (h : StreamBounds d s) :
    Releases s (prepareOne d s) :=
  (releases_dropQueue h).trans <| (releases_flowReset d _).trans <|
    (releases_setCause d _ _).trans <| (releases_clearLoss d _).trans <| releases_setState d _ _

theorem releases_configureOne {d : Dir} {s : State} (h : StreamBounds d s) (c : Cfg) :
    Releases s (configureOne d c s) := by
  rw [configureOne_eq]
  refine (releases_prepareOne h).trans ?_
  unfold storeCfg
  split <;> exact (releases_setCfg d _ _).trans (releases_setState d _ _)

theorem releases_teardownOne {d : Dir} {s : State} (h : StreamBounds d s) :
    Releases s (teardownOne d s) := by
  by_cases hs : (s.stream d).state = .notReady
  · rw [teardownOne_of_eq hs]
    exact (releases_setCfg d _ s).trans (releases_setCause d _ _)
  · rw [teardownOne_of_ne hs]
    exact (releases_stopStream h).trans <| (releases_setCfg d _ _).trans <| releases_setState d _ _

theorem releases_drainOne {d : Dir} {s : State} (h : StreamBounds d s) :
    Releases s (drainOne d s) := by
  cases d
  · exact releases_stopStream h
  · have hflag : ∀ (u : State) (v : Bool), Releases u { u with lastBlockFlag := v } := fun u v =>
      .of_same (l := []) (by simp) nofun rfl (fun e => .of_eq (by cases e <;> rfl))
        ⟨rfl, rfl, rfl⟩
    exact (releases_abortWrite s).trans <| (releases_setState .tx .stopping _).trans <| hflag _ _

theorem releases_faultOne (d : Dir) (c : FaultCause) (s : State) : Releases s (faultOne d c s) :=
  (releases_setState d .error s).trans <| (releases_setCause d c _).trans <| releases_disable d _

theorem releases_couple (d : Dir) (s : State) : Releases s (couple d s) := by
  unfold couple
  split
  · exact releases_faultOne d _ s
  · exact .refl s

theorem releases_fault (d : Dir) (c : FaultCause) (s : State) : Releases s (fault d c s) :=
  (releases_faultOne d c s).trans (releases_couple _ _)

theorem releases_periphOne (d : Dir) (v : Bool) (s : State) : Releases s (periphOne d v s) := by
  unfold periphOne
  split
  · exact releases_faultOne d _ s
  · exact .refl s

theorem releases_drainEnd (s : State) : Releases s (drainEnd s) :=
  (releases_setState .tx .ready s).trans (releases_disable .tx _)

end Sys2Proof.Machine
end

section
/-! Block counts are conserved and no Block has two owners (O16): the completions and
START. -/

namespace Sys2Proof.Machine

/-! ### TX completions -/

/-- The Block in flight goes back to its pool (R172, R215). -/
theorem releases_freed {d : Dir} {s : State} (h : PoolHandle s (s.stream d).active.h) :
    Releases s (setActive d Block.null (emit (.poolFree d (s.stream d).active.h) s)) := by
  have hpar : (setActive d Block.null
      (emit (.poolFree d (s.stream d).active.h) s)).par = s.par := by
    simp [setActive, emit]
  have hlog : (setActive d Block.null (emit (.poolFree d (s.stream d).active.h) s)).log =
      s.log ++ [.call (.poolFree d (s.stream d).active.h)] := by
    simp [setActive, emit]
  refine ⟨fun e => ?_, by simp [setActive, emit], by simp [setActive, emit]⟩
  by_cases he : e = d
  · subst he
    refine .of_released (gone := [(s.stream e).active.h]) hlog ?_ (by simp [obtains])
      (by simp [givesUp])
    have hq : queuedHandles e
        (setActive e Block.null (emit (.poolFree e (s.stream e).active.h) s)) =
        queuedHandles e s :=
      queuedHandles_of (queued_eq_of hpar (by simp [setActive, emit]) (by simp [setActive, emit])
        (by simp [setActive, emit]))
    rw [ownedBy, ownedBy, inFlight_null (by simp [setActive, emit]), hq, inFlight_pool h,
      List.nil_append]
    exact List.perm_append_comm
  · refine .of_same hlog ?_ (ownedBy_of_hold hpar (.of_eq ?_))
    · simp [Event.spares, obtains, givesUp, Ne.symm he]
    · simp [setActive, emit, upd_stream_ne he]

theorem releases_copyFiller (b : Block) (s : State) : Releases s (copyFiller b s) := by
  unfold copyFiller
  split
  · exact .of_same (l := [.call (.fillerCopy b.h b.sz)]) rfl
      (by simpa using spares_call (c := .fillerCopy b.h b.sz) nofun) rfl
      (fun e => .of_eq (by cases e <;> rfl)) ⟨rfl, rfl, rfl⟩
  · exact .refl s

/-- The sent Block goes back to its pool; the filler stays AFBQ's (R215). -/
theorem releases_sent {s : State} (hnull : s.tx.active.h ≠ NULL)
    (hfit : s.tx.active.h.fits s.par.blkW) : Releases s (sent s) := by
  unfold sent releaseSent
  split
  · rename_i hfill
    have hcopy : (copyFiller s.tx.active s).tx = s.tx ∧
        (copyFiller s.tx.active s).par = s.par := by
      unfold copyFiller
      split <;> exact ⟨rfl, rfl⟩
    obtain ⟨htx, hpar⟩ := hcopy
    refine (releases_copyFiller s.tx.active s).trans ?_
    have hfree := releases_freed (d := .tx) (s := copyFiller s.tx.active s)
      (by rw [stream_tx, htx, PoolHandle, hpar]; exact ⟨hnull, hfill, hfit⟩)
    rwa [stream_tx, htx] at hfree
  · rename_i hfill
    have hf : s.tx.active.h = s.par.filler := not_not.1 hfill
    refine ⟨fun e => .of_same (l := []) (by simp [setActive]) nofun ?_, rfl,
      (latchSame_upd .tx _ s).wait⟩
    cases e with
    | rx => exact ownedBy_of_hold rfl (.of_eq rfl)
    | tx =>
      have hq : queuedHandles .tx (setActive .tx Block.null s) = queuedHandles .tx s :=
        queuedHandles_of (queued_eq_of rfl rfl rfl rfl)
      have hin : inFlight .tx s = [] := if_pos (.inr hf)
      rw [ownedBy, ownedBy, inFlight_null rfl, hq, hin]

theorem sent_active (s : State) : (sent s).tx.active = Block.null := by rw [sent_eq]

/-- What sending a Block, the filler or a queued one, writes to the history. -/
theorem txSend_log (b : Block) (s : State) :
    (txSend b s).log = s.log ++ [.call (.cacheClean b.h b.sz),
      .call (.dmaReload .tx (.block b.h) .periphDr b.sz)] := by
  simp [txSend, setActive, emit]

theorem txSend_spares (b : Block) (d : Dir) : ∀ e ∈ [Event.call (.cacheClean b.h b.sz),
    .call (.dmaReload .tx (.block b.h) .periphDr b.sz)], e.spares d := by
  simp [Event.spares, obtains, givesUp]

/-- Nothing was queued: the drain ends, the filler goes out, or the stream faults (R217, R218). -/
theorem releases_txEmpty {s : State} (h : s.tx.active = Block.null) : Releases s (txEmpty s) := by
  unfold txEmpty
  split
  · exact releases_drainEnd s
  · split
    · refine ⟨fun e => .of_same (txSend_log _ { s with underrun := true }) (txSend_spares _ e) ?_,
        rfl, fun hw => ⟨hw, rfl⟩⟩
      cases e with
      | rx => exact ownedBy_of_hold rfl (.of_eq rfl)
      | tx =>
        have hq : queuedHandles .tx (txSend { h := s.par.filler, sz := s.fillerSize }
            { s with underrun := true }) = queuedHandles .tx s :=
          queuedHandles_of (queued_eq_of rfl rfl rfl rfl)
        have hin : inFlight .tx (txSend { h := s.par.filler, sz := s.fillerSize }
            { s with underrun := true }) = [] := if_pos (.inr rfl)
        rw [ownedBy, ownedBy, hin, inFlight_null (d := .tx) h, hq]
    · exact releases_fault .tx _ s

/-- What the next Block's way to DMA writes (R215). -/
theorem txNext_eq (b : Block) (s : State) :
    txNext b s = { s with
      tx := { s.tx with active := b, giveCnt := (s.tx.giveCnt + 1) % flowMod .tx s },
      underrun := false, lastBlockFlag := (txNext b s).lastBlockFlag,
      log := s.log ++ [.call (.cacheClean b.h b.sz),
        .call (.dmaReload .tx (.block b.h) .periphDr b.sz)] } := by
  have hlog := txSend_log b (markLast (give .tx { s with underrun := false }))
  have hmark : (markLast (give .tx { s with underrun := false })).log = s.log := by
    rw [markLast_eq]
    rfl
  rw [hmark] at hlog
  rw [← hlog, txNext, markLast_eq]
  rfl

/-- The oldest queued Block goes under DMA: the stream owns what it owned (R215). -/
theorem releases_txNext {s : State} (h : StreamBounds .tx s) (hact : s.tx.active = Block.null)
    (hocc : 0 < occ .tx s) (hpool : PoolHandle s (memRead .tx s.tx.tail s).h) :
    Releases s (txNext (memRead .tx s.tx.tail s) (popped .tx s)) := by
  have hq : queued .tx s = memRead .tx s.tx.tail s :: queued .tx (popped .tx s) :=
    queued_pop h hocc
  rw [txNext_eq]
  refine ⟨fun e => .of_same rfl (txSend_spares _ e) ?_, rfl, fun hw => ⟨hw, rfl⟩⟩
  cases e with
  | rx => exact ownedBy_of_hold rfl (.of_eq rfl)
  | tx =>
    rw [ownedBy, ownedBy, inFlight_null (d := .tx) hact, inFlight_pool hpool, queuedHandles,
      queuedHandles, hq, queued_eq_of (t := _) (s := popped .tx s) rfl rfl rfl rfl]
    rfl

theorem releases_txDoneOk {s : State} (i : Inv s) (harm : s.tx.armed = true) :
    Releases s (txDoneOk s) := by
  have hsent : Releases s (sent s) :=
    releases_sent (i.tx.stream.active_iff.2 harm) i.tx.stream.active_fits
  rcases txDoneOk_cases s with ⟨_, he⟩ | ⟨_, _, he⟩ | ⟨_, hne, he⟩ <;> rw [he]
  · exact hsent.trans (releases_drainEnd _)
  · exact hsent.trans (releases_txEmpty (sent_active s))
  · have hocc : 0 < occ .tx s := Nat.pos_of_ne_zero fun hz =>
      hne ((occ_eq_zero_iff (i.bounds .tx)).1 hz)
    have hq : queued .tx s = memRead .tx s.tx.tail s :: queued .tx (popped .tx s) :=
      queued_pop (i.bounds .tx) hocc
    have hpool : PoolHandle s (memRead .tx s.tx.tail s).h :=
      i.tx.stream.queued_pool _ (by rw [hq]; exact List.mem_cons_self)
    have hpar : (sent s).par = s.par := by rw [sent_eq]
    have hqs : QueueSame ((sent s).stream .tx) (s.stream .tx) := by
      rw [sent_eq]
      exact ⟨rfl, rfl, rfl, rfl, rfl, rfl⟩
    have hread : memRead .tx (sent s).tx.tail (sent s) = memRead .tx s.tx.tail s := by
      rw [sent_eq]
      rfl
    have hnext := releases_txNext (same_bounds hpar hqs (i.bounds .tx)) (sent_active s)
      (by rwa [same_occ hpar hqs]) (by rwa [hread, PoolHandle, hpar])
    rw [hread] at hnext
    exact hsent.trans hnext

/-! ### Transfers -/

/-- The handles of `l` that stream `d` got. -/
def gotOf (l : List (Dir × Handle)) (d : Dir) : List Handle :=
  (l.filter fun p => p.1 = d).map Prod.snd

theorem gotOf_perm (l : List (Dir × Handle)) :
    (gotOf l .rx ++ gotOf l .tx).Perm (l.map Prod.snd) := by
  induction l with
  | nil => rfl
  | cons p l ih =>
    obtain ⟨d, h⟩ := p
    cases d
    · exact ih.cons h
    · exact List.perm_middle.trans (ih.cons h)

theorem gotOf_append (l m : List (Dir × Handle)) (d : Dir) :
    gotOf (l ++ m) d = gotOf l d ++ gotOf m d := by
  simp [gotOf]

/-- The two entries of an answered allocation. -/
abbrev allocEvents (d : Dir) (h : Handle) : List Event :=
  [.call (.poolAlloc d), .alloc d (.block h)]

theorem countP_obtains_alloc (d e : Dir) (h : Handle) :
    (allocEvents e h).countP (obtains d) = (gotOf [(e, h)] d).length := by
  cases d <;> cases e <;> rfl

theorem countP_givesUp_alloc (d e : Dir) (h : Handle) :
    (allocEvents e h).countP (givesUp d) = 0 := by
  cases d <;> cases e <;> rfl

theorem busyEvents_spares (d e : Dir) :
    ∀ x ∈ [Event.call (.poolAlloc e), .alloc e .busy], x.spares d := by
  intro x hx
  rcases List.mem_pair.1 hx with rfl | rfl
  · exact spares_call (c := .poolAlloc e) nofun d
  · exact spares_busy d e

/-- An operation's effect on ownership: the streams obtained `got` from the pools, different Blocks
no one owned, gave up others, and left the application's alone (R57). -/
structure Transfers (got : List (Dir × Handle)) (s t : State) : Prop where
  moved : ∀ d, Moved d (gotOf got d) s t
  fresh : ∀ p ∈ got, p.2 ∉ owned s
  nodup : (got.map Prod.snd).Nodup
  app : t.app = s.app

theorem Releases.transfers {s t : State} (h : Releases s t) : Transfers [] s t :=
  ⟨h.moved, nofun, List.nodup_nil, h.app⟩

theorem Transfers.releases {got : List (Dir × Handle)} {s t u : State} (h : Transfers got s t)
    (g : Releases t u) : Transfers got s u where
  moved d := by
    have := (h.moved d).trans (g.moved d)
    rwa [List.append_nil] at this
  fresh := h.fresh
  nodup := h.nodup
  app := g.app.trans h.app

/-- Single ownership survives: what is owned now was owned or obtained, and nothing twice. -/
theorem Transfers.owned_nodup {got : List (Dir × Handle)} {s t : State} (h : Transfers got s t)
    (hn : (owned s).Nodup) : (owned t).Nodup := by
  obtain ⟨-, g1, -, hp1, -⟩ := h.moved .rx
  obtain ⟨-, g2, -, hp2, -⟩ := h.moved .tx
  have hg := gotOf_perm got
  have hperm : (owned t ++ (g1 ++ g2)).Perm (owned s ++ got.map Prod.snd) := by
    simp only [owned_eq, h.app, List.perm_iff_count, List.count_append] at hp1 hp2 hg ⊢
    intro a
    have := hp1 a
    have := hp2 a
    have := hg a
    omega
  have hall : (owned s ++ got.map Prod.snd).Nodup := by
    refine List.nodup_append.2 ⟨hn, h.nodup, fun a ha b hb hab => ?_⟩
    obtain ⟨p, hp, rfl⟩ := List.mem_map.1 hb
    exact h.fresh p hp (hab ▸ ha)
  exact (hperm.nodup_iff.2 hall).of_append_left

/-! ### RX completions -/

theorem ask_log {d : Dir} {held : List Handle} {s t : State} {a : PoolAnswer}
    (h : ask d held s = (a, t)) : t.log = s.log ++ [.call (.poolAlloc d), .alloc d a] := by
  rcases ask_cases d held s with ⟨b, l, _, he⟩ | ⟨_, he⟩ <;> rw [he] at h <;> cases h <;> rfl

theorem releases_busy {d : Dir} {held : List Handle} {s t : State}
    (h : ask d held s = (.busy, t)) : Releases s t := by
  have hc := ask_poolChange h
  refine .of_same (ask_log h) (fun e he k => busyEvents_spares k d e he) hc.par
    (fun e => .of_eq (hc.stream e)) ?_
  rw [hc.eq]
  exact ⟨rfl, rfl, rfl⟩

/-- RX with the new Block under DMA and the completed one in the queue (R211 (d)). -/
theorem moved_delivered {nb : Handle} {s s1 : State} (i : Inv s) (harm : s.rx.armed = true)
    (ha : ask .rx [] s = (.block nb, s1)) (hocc : occ .rx s < s.qcap .rx) (d : Dir) :
    Moved d (gotOf [(.rx, nb)] d) s (give .rx (pushed .rx (completed s1) (reloaded nb s1))) := by
  obtain ⟨hc, hnb, -, -⟩ := ask_block ha
  have hload := (transfer_reloaded nb s1).trans (transfer_ask ha)
  have hpar := hload.par
  have hqs := hload.queueSame .rx
  have hrx : s1.rx = s.rx := hc.stream .rx
  have hlog : (give .rx (pushed .rx (completed s1) (reloaded nb s1))).log =
      s.log ++ (allocEvents .rx nb ++
        [Event.call (.dmaReload .rx .periphDr (.block nb) s1.rx.cfg.blockSize)]) := by
    rw [← List.append_assoc, ← ask_log ha]
    rfl
  cases d with
  | tx =>
    refine .of_same hlog ?_ (ownedBy_of_hold hpar (.of_eq (hc.stream .tx)))
    simp [Event.spares, obtains, givesUp]
  | rx =>
    have hqueue : queued .rx (give .rx (pushed .rx (completed s1) (reloaded nb s1))) =
        queued .rx s ++ [completed s1] := by
      rw [give_queued, pushed_queued (same_bounds hpar hqs (i.bounds .rx)) _
        (by rwa [same_occ hpar hqs, qcap_congr hpar]), same_queued hpar hqs]
    have hin : inFlight .rx (give .rx (pushed .rx (completed s1) (reloaded nb s1))) = [nb] := by
      refine inFlight_pool (d := .rx) ?_
      rw [PoolHandle]
      exact hpar ▸ hnb
    refine ⟨_, [], hlog, ?_, rfl⟩
    rw [ownedBy, ownedBy, hin, inFlight_pool (d := .rx) (i.active_pool harm), queuedHandles,
      queuedHandles, hqueue, completed, hrx]
    simp only [List.perm_iff_count, gotOf, List.count_append, List.map_append]
    intro a
    simp
    omega

/-- RX with the new Block under DMA and the completed one back in its pool (R212). -/
theorem moved_discarded {nb : Handle} {s s1 : State} (i : Inv s) (harm : s.rx.armed = true)
    (ha : ask .rx [] s = (.block nb, s1)) (d : Dir) :
    Moved d (gotOf [(.rx, nb)] d) s (emit (.poolFree .rx (completed s1).h) (reloaded nb s1)) := by
  obtain ⟨hc, hnb, -, -⟩ := ask_block ha
  have hload : TransferChange (emit (.poolFree .rx (completed s1).h) (reloaded nb s1)) s :=
    (transfer_record _ _).trans ((transfer_reloaded nb s1).trans (transfer_ask ha))
  have hpar := hload.par
  have hqs := hload.queueSame .rx
  have hlog : (emit (.poolFree .rx (completed s1).h) (reloaded nb s1)).log =
      s.log ++ (allocEvents .rx nb ++
        [Event.call (.dmaReload .rx .periphDr (.block nb) s1.rx.cfg.blockSize),
          Event.call (.poolFree .rx (completed s1).h)]) := by
    rw [← List.append_assoc, ← ask_log ha]
    simp [emit, record, reloaded, setActive]
  cases d with
  | tx =>
    refine .of_same hlog ?_ (ownedBy_of_hold hpar (.of_eq (hc.stream .tx)))
    simp [Event.spares, obtains, givesUp]
  | rx =>
    have hin : inFlight .rx (emit (.poolFree .rx (completed s1).h) (reloaded nb s1)) = [nb] := by
      refine inFlight_pool (d := .rx) ?_
      rw [PoolHandle]
      exact hpar ▸ hnb
    refine ⟨_, [s.rx.active.h], hlog, ?_, rfl⟩
    rw [ownedBy, ownedBy, hin, inFlight_pool (d := .rx) (i.active_pool harm),
      queuedHandles_of (same_queued hpar hqs)]
    simp only [List.perm_iff_count, gotOf, List.count_append]
    intro a
    simp
    omega

/-- A successful RX completion obtains one Block or none (R211). -/
theorem rxDoneRunning_transfers {s : State} (i : Inv s) (harm : s.rx.armed = true) :
    ∃ got, Transfers got s (rxDoneRunning s) := by
  rcases rxDoneRunning_cases s with ⟨s1, ha, he⟩ | ⟨nb, s1, ha, he⟩ <;> rw [he]
  · exact ⟨[], ((releases_busy ha).trans (releases_fault .rx _ s1)).transfers⟩
  · obtain ⟨hc, hnb, hown, -⟩ := ask_block ha
    have hload := (transfer_reloaded nb s1).trans (transfer_ask ha)
    have hpar := hload.par
    have hqs := hload.queueSame .rx
    have hbounds : StreamBounds .rx (reloaded nb s1) := same_bounds hpar hqs (i.bounds .rx)
    have hdiscard : Transfers [(.rx, nb)] s
        (emit (.poolFree .rx (completed s1).h) (reloaded nb s1)) :=
      ⟨moved_discarded i harm ha, by simpa using hown, by simp, hc.app⟩
    refine ⟨[(.rx, nb)], ?_⟩
    rcases rxDeliver_cases (completed s1) id (reloaded nb s1) with
      ⟨hp, hd⟩ | ⟨_, _, hd⟩ | ⟨_, _, hd⟩ <;> rw [hd]
    · have hocc : occ .rx s < s.qcap .rx := by
        rcases push_cases hbounds (completed s1) with ⟨hn, _⟩ | ⟨_, hlt⟩
        · rw [hn] at hp
          cases hp
        · rwa [same_occ hpar hqs, qcap_congr hpar] at hlt
      exact ⟨moved_delivered i harm ha hocc, by simpa using hown, by simp, hc.app⟩
    · have hflag : ∀ u : State, Releases u { u with overrun := true } := fun u =>
        .of_same (l := []) (by simp) nofun rfl (fun e => .of_eq (by cases e <;> rfl))
          ⟨rfl, rfl, rfl⟩
      exact hdiscard.releases (hflag _)
    · exact hdiscard.releases (releases_fault .rx _ _)

/-! ### START -/

theorem allocAll_some_log {T : List Dir} {got all : List (Dir × Handle)} {s t : State}
    (h : allocAll T got s = (some all, t)) : ∃ l, t.log = s.log ++ l ∧ ∀ d,
      l.countP (obtains d) + (gotOf got d).length = (gotOf all d).length ∧
      l.countP (givesUp d) = 0 := by
  induction T generalizing got s with
  | nil =>
    cases h
    exact ⟨[], (List.append_nil _).symm, fun d => by simp⟩
  | cons e T ih =>
    rw [allocAll] at h
    split at h
    · cases h
    · rename_i k s1 ha
      obtain ⟨l, hl, hc⟩ := ih h
      refine ⟨allocEvents e k ++ l, ?_, fun d => ?_⟩
      · rw [hl, ask_log ha, List.append_assoc]
      · obtain ⟨h1, h2⟩ := hc d
        rw [gotOf_append, List.length_append] at h1
        rw [List.countP_append, List.countP_append, countP_obtains_alloc, countP_givesUp_alloc]
        omega

theorem countP_givesUp_free (d : Dir) (l : List (Dir × Handle)) :
    (l.map fun p => Event.call (.poolFree p.1 p.2)).countP (givesUp d) = (gotOf l d).length := by
  induction l with
  | nil => rfl
  | cons p l ih =>
    rw [List.map_cons, List.countP_cons, ih]
    by_cases hd : p.1 = d <;> simp [givesUp, gotOf, hd]

theorem countP_obtains_free (d : Dir) (l : List (Dir × Handle)) :
    (l.map fun p => Event.call (.poolFree p.1 p.2)).countP (obtains d) = 0 := by
  rw [List.countP_map, List.countP_eq_zero]
  intro p _
  simp [obtains]

/-- One pool was busy: what was obtained was given back (R174). -/
theorem allocAll_none_log {T : List Dir} {got : List (Dir × Handle)} {s t : State}
    (h : allocAll T got s = (none, t)) : ∃ l, t.log = s.log ++ l ∧ ∀ d,
      l.countP (obtains d) + (gotOf got d).length = l.countP (givesUp d) := by
  induction T generalizing got s with
  | nil => cases h
  | cons e T ih =>
    rw [allocAll] at h
    split at h
    · rename_i s1 ha
      cases h
      refine ⟨[Event.call (.poolAlloc e), Event.alloc e .busy] ++
        got.map fun p => Event.call (.poolFree p.1 p.2), ?_, fun d => ?_⟩
      · rw [foldl_free, ask_log ha, List.append_assoc]
      · obtain ⟨h1, h2⟩ := countP_of_spares (busyEvents_spares d e)
        rw [List.countP_append, List.countP_append, countP_givesUp_free, countP_obtains_free, h1,
          h2, Nat.zero_add]
    · rename_i k s1 ha
      obtain ⟨l, hl, hc⟩ := ih h
      refine ⟨allocEvents e k ++ l, ?_, fun d => ?_⟩
      · rw [hl, ask_log ha, List.append_assoc]
      · have h1 := hc d
        rw [gotOf_append, List.length_append] at h1
        rw [List.countP_append, List.countP_append, countP_obtains_alloc, countP_givesUp_alloc]
        omega

/-- The history grew by entries that move no Block. -/
def GrowsQuiet (s t : State) : Prop := ∃ l, t.log = s.log ++ l ∧ ∀ e ∈ l, ∀ d, e.spares d

theorem GrowsQuiet.trans {s t u : State} (h : GrowsQuiet s t) (g : GrowsQuiet t u) :
    GrowsQuiet s u := by
  obtain ⟨l, hl, hs⟩ := h
  obtain ⟨m, hm, ht⟩ := g
  exact ⟨l ++ m, by rw [hm, hl, List.append_assoc], fun e he =>
    (List.mem_append.1 he).elim (hs e) (ht e)⟩

theorem GrowsQuiet.foldl {α : Type} {f : State → α → State} (h : ∀ u a, GrowsQuiet u (f u a))
    (l : List α) (s : State) : GrowsQuiet s (l.foldl f s) := by
  induction l generalizing s with
  | nil => exact ⟨[], by simp, nofun⟩
  | cons a l ih => exact (h s a).trans (ih _)

theorem growsQuiet_arm (d : Dir) (h : Handle) (s : State) : GrowsQuiet s (arm d h s) := by
  rw [arm_eq]
  refine ⟨_, rfl, fun e he k => ?_⟩
  obtain ⟨c, hc, rfl⟩ := List.mem_map.1 he
  refine spares_call (fun e k hk => ?_) k
  subst hk
  cases d <;> simp [armTrace] at hc

theorem growsQuiet_periphOn (s : State) : GrowsQuiet s (periphOn s) := by
  unfold periphOn
  split
  · exact ⟨[.call .periphEnable], rfl, by simpa using spares_call (c := .periphEnable) nofun⟩
  · exact ⟨[], by simp, nofun⟩

/-- The arming half of START writes calls and an answer (R171, R174). -/
theorem growsQuiet_started (T : List Dir) (got : List (Dir × Handle)) (s : State) :
    GrowsQuiet s (respond .cmd .ok (T.foldl (fun u d => setState d .running u)
      (periphOn (got.foldl (fun u p => arm p.1 p.2 u) s)))) := by
  have hstate : ∀ (u : State) (d : Dir), GrowsQuiet u (setState d .running u) := fun u d =>
    ⟨[], by simp [setState], nofun⟩
  have hresp : ∀ u : State, GrowsQuiet u (respond .cmd .ok u) := fun u =>
    ⟨_, rfl, by simpa using spares_resp (.inr rfl)⟩
  exact (GrowsQuiet.foldl (fun u p => growsQuiet_arm p.1 p.2 u) got s).trans <|
    (growsQuiet_periphOn _).trans <| (GrowsQuiet.foldl hstate T _).trans (hresp _)

theorem ownedBy_unread {s t : State} (h : Unread t s) (d : Dir) : ownedBy d t = ownedBy d s := by
  refine ownedBy_of_hold ?_ (.of_eq ?_) <;> rw [h.eq]
  cases d <;> rfl

/-- A stream that begins owns its Block besides what it had queued (R171). -/
theorem ownedBy_begun {d : Dir} {h : Handle} {s : State} (hh : PoolHandle s h)
    (hact : (s.stream d).active = Block.null) (e : Dir) :
    (ownedBy e (begun d h s)).Perm (ownedBy e s ++ gotOf [(d, h)] e) := by
  by_cases he : e = d
  · subst he
    have hact' : ((begun e h s).stream e).active.h = h := by
      rw [begun, arm_eq]
      cases e <;> rfl
    have hq : queuedHandles e (begun e h s) = queuedHandles e s := by
      refine queuedHandles_of (queued_eq_of (begun_par e h s) ?_ ?_ ?_) <;>
        rw [begun, arm_eq] <;> cases e <;> rfl
    have hin : inFlight e (begun e h s) = [h] := by
      rw [inFlight_pool, hact']
      rwa [hact', PoolHandle, begun_par]
    rw [ownedBy, ownedBy, hin, hq, inFlight_null hact]
    have hgot : gotOf [(e, h)] e = [h] := by simp [gotOf]
    rw [hgot]
    exact List.perm_append_comm
  · rw [ownedBy_of_hold (begun_par d h s) (.of_eq (begun_stream_ne he h s))]
    have hgot : gotOf [(d, h)] e = [] := by simp [gotOf, Ne.symm he]
    rw [hgot, List.append_nil]

theorem latchSame_start {dir : DirSel} {s t : State} (h : execTriggerStart dir s = .next t) :
    LatchSame s t := by
  have hrec : ∀ (e : Event) (u : State), LatchSame u (record e u) := fun e u => ⟨rfl, rfl, rfl⟩
  have hpool : ∀ {u v : State}, PoolChange v u → LatchSame u v := by
    intro u v hc
    rw [hc.eq]
    exact ⟨rfl, rfl, rfl⟩
  rcases start_cases h with ⟨got, s1, ha, _, rfl⟩ | ⟨s1, ha, rfl⟩ | rfl
  · have harm : ∀ (u : State) (p : Dir × Handle), LatchSame u (arm p.1 p.2 u) := by
      intro u p
      rw [arm_eq]
      exact ⟨upd_app u _ _, upd_wrPhase u _ _, upd_wrH u _ _⟩
    have hon : ∀ u : State, LatchSame u (periphOn u) := by
      intro u
      rw [periphOn_eq]
      exact ⟨rfl, rfl, rfl⟩
    exact (hpool (allocAll_start ha).change).trans <| (LatchSame.foldl harm got s1).trans <|
      (hon _).trans <| (LatchSame.foldl (fun u d => latchSame_upd d _ u) _ _).trans (hrec _ _)
  · exact (hpool (allocAll_none ha)).trans (hrec _ _)
  · exact hrec _ _

end Sys2Proof.Machine
end

section
/-! Block counts are conserved and no Block has two owners (O16): the operations, the
internal steps, and the step. -/

namespace Sys2Proof.Machine

/-! ### The operations -/

/-- A target of START had no Block in flight (R41 items 1 and 2). -/
theorem Inv.ready_inactive {s : State} (i : Inv s) {d : Dir} (h : (s.stream d).state = .ready) :
    (s.stream d).active = Block.null :=
  (i.streamInv d).inactive (i.unarmed d (by simp [h]))

/-- The targets of a granted START own their Blocks besides what they had queued (R174). -/
theorem ownedBy_started {T : List Dir} {got : List (Dir × Handle)} {s s1 : State} (i : Inv s)
    (hT : (∃ d, T = [d]) ∨ T = [.rx, .tx]) (o : Obtained T [] got s s1)
    (hready : ∀ d ∈ T, (s.stream d).state = .ready) (e : Dir) :
    (ownedBy e (T.foldl (fun u d => setState d .running u)
      (periphOn (got.foldl (fun u p => arm p.1 p.2 u) s1)))).Perm (ownedBy e s ++ gotOf got e) := by
  have hs1 : ownedBy e s1 = ownedBy e s := ownedBy_unread o.change.unread e
  have hpool : ∀ p ∈ got, PoolHandle s1 p.2 := fun p hp => by
    rw [PoolHandle, o.change.par]
    exact o.pool p hp
  have hact : ∀ d ∈ T, (s1.stream d).active = Block.null := fun d hd => by
    rw [o.change.stream]
    exact i.ready_inactive (hready d hd)
  rcases started_cases hT o with ⟨d, h, rfl, rfl, hu⟩ | ⟨h, k, rfl, rfl, hu⟩
  · rw [ownedBy_unread hu, ← hs1]
    exact ownedBy_begun (hpool (d, h) (by simp)) (hact d (by simp)) e
  · have hfirst := ownedBy_begun (hpool (.rx, h) (by simp)) (hact .rx (by simp)) e
    have hsecond := ownedBy_begun (d := .tx) (h := k) (s := begun .rx h s1)
      (by rw [PoolHandle, begun_par]; exact hpool (.tx, k) (by simp))
      (by rw [begun_stream_ne (by decide)]; exact hact .tx (by simp)) e
    have hsplit : gotOf [(.rx, h), (.tx, k)] e = gotOf [(.rx, h)] e ++ gotOf [(.tx, k)] e :=
      gotOf_append [(.rx, h)] [(.tx, k)] e
    rw [ownedBy_unread hu, ← hs1, hsplit, ← List.append_assoc]
    exact hsecond.trans (hfirst.append_right _)

theorem start_transfers {dir : DirSel} {s t : State} (i : Inv s)
    (h : execTriggerStart dir s = .next t) : ∃ got, Transfers got s t := by
  have happ := (latchSame_start h).app
  rcases start_cases h with ⟨got, s1, ha, hready, rfl⟩ | ⟨s1, ha, rfl⟩ | rfl
  · have o := allocAll_start ha
    obtain ⟨l, hl, hc⟩ := allocAll_some_log ha
    obtain ⟨m, hm, hs⟩ := growsQuiet_started (targets dir s) got s1
    refine ⟨got, ⟨fun d => ?_, o.fresh, o.nodup, happ⟩⟩
    obtain ⟨h1, h2⟩ := hc d
    obtain ⟨h3, h4⟩ := countP_of_spares fun e he => hs e he d
    refine ⟨l ++ m, [], by rw [hm, hl, List.append_assoc], ?_, ?_⟩
    · rw [List.append_nil]
      refine List.Perm.trans (.of_eq ?_) (ownedBy_started i (targets_cases dir s) o hready d)
      exact ownedBy_of_hold rfl (.of_eq (record_stream _ _ d))
    · have hnil : (gotOf ([] : List (Dir × Handle)) d).length = 0 := rfl
      rw [List.countP_append, List.countP_append, List.length_nil]
      omega
  · have hchange := allocAll_none ha
    obtain ⟨l, hl, hc⟩ := allocAll_none_log ha
    have hrel : Releases s s1 := by
      refine ⟨fun d => ⟨l, [], hl, ?_, by simpa [gotOf] using hc d⟩, hchange.app, fun hw => ?_⟩
      · rw [ownedBy_unread hchange.unread d]
      · rw [hchange.eq] at hw ⊢
        exact ⟨hw, rfl⟩
    exact ⟨[], (hrel.trans (releases_respond (.inr rfl) s1)).transfers⟩
  · exact ⟨[], (releases_respond (.inr rfl) s).transfers⟩

/-- A TRIGGER command only releases if the change of each target does. -/
theorem releases_trigger {x : Trigger} {T : List Dir} {f : State → Dir → State} {s t : State}
    (i : Inv s) (hT : T.Nodup)
    (hf : ∀ u d, Inv u → legal x (u.stream d).state = true → Inv (f u d) ∧ Releases u (f u d))
    (hother : ∀ u d e, Inv u → e ≠ d → (f u d).stream e = u.stream e)
    (h : (if allLegal x T s then .next (respond .cmd .ok (T.foldl f s))
      else .next (respond .cmd .invalidState s) : Host.Outcome State Fault Refusal) = .next t) :
    Releases s t := by
  rcases trigger_cases h with ⟨hl, rfl⟩ | rfl
  · exact (foldl_targets Releases.refl Releases.trans (P := fun a => legal x a.state = true) hf
      hother hT i hl).2.trans (releases_respond (.inr rfl) _)
  · exact releases_respond (.inr rfl) s

/-- The operation leaves the WR channel's handle, or is a WRITE that latches its own. -/
def LatchKept (i : Instr) (s t : State) : Prop :=
  t.wrPhase = .wait → (s.wrPhase = .wait ∧ t.wrH = s.wrH) ∨
    ∃ blk size, i = .write blk size ∧ t.wrH = blk.wired s.par.blkW

/-- A change of registers that hold no Block: a timer, a phase, the moves presented. -/
theorem moved_of_regs {s t : State} (hl : t.log = s.log) (hp : t.par = s.par)
    (hs : ∀ d, t.stream d = s.stream d) (d : Dir) : Moved d [] s t :=
  .of_same (l := []) (by simp [hl]) nofun (ownedBy_of_hold hp (.of_eq (hs d)))

/-- Every operation: the Blocks it obtains, and the handle it latches (R57, R341). -/
theorem exec_transfers {i : Instr} {s t : State} (hs : Inv s) (h : exec i s = .next t) :
    (∃ got, Transfers got s t) ∧ LatchKept i s t := by
  have hrel : Releases s t → (∃ got, Transfers got s t) ∧ LatchKept i s t := fun hr =>
    ⟨⟨[], hr.transfers⟩, fun hw => .inl (hr.wait hw)⟩
  cases i with
  | configure dir w0 w1 w2 w3 w4 =>
    rcases configure_cases h with ⟨hl, rfl⟩ | ⟨k, rfl⟩
    · refine hrel ((foldl_targets Releases.refl Releases.trans
        (P := fun a => configurable a.state = true) (fun u d iu hd => ?_)
        (fun u d e iu he => configureOne_stream_ne iu he) (addressed_nodup dir) hs hl).2.trans
        (releases_respond (.inr rfl) _))
      exact ⟨inv_configureOne d _ iu (iu.unarmed d (configurable_off hd)),
        releases_configureOne (iu.bounds d) _⟩
    · exact hrel (releases_respond (.inr rfl) s)
  | triggerStart dir =>
    exact ⟨start_transfers hs h, fun hw => .inl ((latchSame_start h).wait hw)⟩
  | triggerStop dir =>
    exact hrel (releases_trigger hs (targets_nodup dir s)
      (fun u d iu _ => ⟨inv_stopStream d iu, releases_stopStream (iu.bounds d)⟩)
      (fun u d e iu he => stopStream_stream_ne iu he) h)
  | triggerDrain dir =>
    exact hrel (releases_trigger hs (targets_nodup dir s)
      (fun u d iu hd => ⟨inv_drainOne iu hd, releases_drainOne (iu.bounds d)⟩)
      (fun u d e iu he => drainOne_stream_ne iu he) h)
  | triggerDrop dir =>
    exact hrel (releases_trigger hs (targets_nodup dir s)
      (fun u d iu _ => ⟨inv_stopStream d iu, releases_stopStream (iu.bounds d)⟩)
      (fun u d e iu he => stopStream_stream_ne iu he) h)
  | triggerPrepare dir =>
    exact hrel (releases_trigger hs (targets_nodup dir s)
      (fun u d iu hd => ⟨inv_prepareOne d iu (iu.unarmed d (legal_prepare_off hd)),
        releases_prepareOne (iu.bounds d)⟩)
      (fun u d e iu he => prepareOne_stream_ne iu he) h)
  | status dir =>
    obtain ⟨r, hr, rfl⟩ := status_cases h
    exact hrel (releases_record (spares_resp (.inr hr)) s)
  | read =>
    rcases read_cases h with rfl | ⟨_, rfl⟩ | rfl
    · exact hrel (releases_respond (ch := .rd) (k := .invalidState) (.inl (by decide)) s)
    · exact hrel ⟨moved_of_regs rfl rfl (fun d => by cases d <;> rfl), rfl, fun hw => ⟨hw, rfl⟩⟩
    · exact hrel ⟨moved_of_regs rfl rfl (fun d => by cases d <;> rfl), rfl, fun hw => ⟨hw, rfl⟩⟩
  | write blk size =>
    rcases write_cases h with ⟨k, hk, rfl⟩ | ⟨_, _, rfl⟩ | rfl
    · exact hrel (releases_respond (.inl hk) s)
    · exact ⟨⟨[], moved_of_regs rfl rfl (fun d => by cases d <;> rfl), nofun, List.nodup_nil, rfl⟩,
        fun _ => .inr ⟨blk, size, rfl, rfl⟩⟩
    · exact hrel ⟨moved_of_regs rfl rfl (fun d => by cases d <;> rfl), rfl, fun hw => ⟨hw, rfl⟩⟩
  | teardown =>
    obtain ⟨u, hu, -, rfl⟩ := teardown_eq h
    have hdown : Releases s u := hu ▸ (releases_teardownOne (hs.bounds .rx)).trans
      (releases_teardownOne ((inv_teardownOne .rx hs).bounds .tx))
    have hflags : Releases u { u with overrun := false, underrun := false, fillerSize := 0 } :=
      ⟨moved_of_regs rfl rfl (fun d => by cases d <;> rfl), rfl, fun hw => ⟨hw, rfl⟩⟩
    exact hrel ((hdown.trans hflags).trans (releases_respond (.inr rfl) _))
  | rxDone status =>
    have hlatch : LatchKept (.rxDone status) s t := by
      rw [(rxDone_change h).eq]
      exact fun hw => .inl ⟨hw, rfl⟩
    rcases rxDone_cases h with rfl | ⟨_, rfl⟩ | ⟨_, _, hst, _⟩ | ⟨_, harm, _, rfl⟩
    · exact hrel (.refl t)
    · exact hrel (releases_fault .rx _ s)
    · exact absurd hst hs.rx.not_stopping
    · exact ⟨rxDoneRunning_transfers hs harm, hlatch⟩
  | txDone status =>
    rcases txDone_cases h with rfl | ⟨_, rfl⟩ | ⟨_, harm, rfl⟩
    · exact hrel (.refl t)
    · exact hrel (releases_fault .tx _ s)
    · exact hrel (releases_txDoneOk hs harm)
  | periphFault flags =>
    rcases periphFault_cases h with rfl | rfl | rfl
    · exact hrel (.refl t)
    · exact hrel (releases_emit (c := .clearErrors) nofun s)
    · exact hrel <| (releases_emit (c := .clearErrors) nofun s).trans <|
        (releases_periphOne .rx _ _).trans <| (releases_periphOne .tx _ _).trans <|
        (releases_couple .rx _).trans (releases_couple .tx _)

/-! ### The internal steps -/

theorem countP_byKind {p : Event → Bool} (hp : ∀ m, p (.op m) = false) (l : List Event) :
    (byKind l).countP p = l.countP p := by
  have hsum : ∀ l, (byKind l).countP p = (answersOf l).countP (fun q => p (.alloc q.1 q.2)) +
      (callsOf l).countP (fun c => p (.call c)) + (respsOf l).countP (fun r => p (.resp r)) := by
    intro l
    simp only [byKind, List.countP_append, List.countP_map, Function.comp_def]
  rw [hsum]
  induction l with
  | nil => rfl
  | cons e l ih =>
    rw [List.countP_cons, ← ih]
    cases e <;>
      simp only [answersOf, callsOf, respsOf, List.filterMap_cons, Event.answer?, Event.call?,
        Event.resp?, List.countP_cons, hp, Bool.false_eq_true, if_false] <;> omega

/-- The order in which a step enters its part in the history does not matter to the counts (R94). -/
theorem Moved.contributed {d : Dir} {got : List Handle} {s u : State} (h : Moved d got s u) :
    Moved d got s { u with log := s.log ++ byKind (u.log.drop s.log.length) } := by
  obtain ⟨l, gone, hl, hp, hc⟩ := h
  have hown : ownedBy d { u with log := s.log ++ byKind (u.log.drop s.log.length) } =
      ownedBy d u := ownedBy_of_hold rfl (.of_eq (by cases d <;> rfl))
  refine ⟨byKind l, gone, by rw [hl, List.drop_left], ?_, ?_⟩
  · rwa [hown]
  · rw [countP_byKind (fun _ => rfl), countP_byKind (fun _ => rfl)]
    exact hc

/-- What RD_GRANT leaves of the RX queue (R242). -/
def rxRest (s : State) : List Handle := queuedHandles .rx (popped .rx (take .rx s))

/-- The Block RD_GRANT delivers (R242). -/
def rxOldest (s : State) : Block := memRead .rx s.rx.tail s

/-- The answer of a granted READ (R242). -/
def readAnswer (b : Block) : Event :=
  .resp { ch := .rd, code := .ok, blk := b.h, size := b.sz, sw := 0 }

/-- RD_GRANT as a change of the history, the application's Blocks and the queue (R242). -/
structure RdGranted (s t : State) : Prop where
  log : t.log = s.log ++ [readAnswer (rxOldest s)]
  app : t.app = s.app ++ [(rxOldest s).h]
  phase : t.wrPhase = s.wrPhase
  handle : t.wrH = s.wrH
  before : ownedBy .rx s = inFlight .rx s ++ (rxOldest s).h :: rxRest s
  after : ownedBy .rx t = inFlight .rx s ++ rxRest s
  other : ownedBy .tx t = ownedBy .tx s

theorem rdGrant_granted {s : State} (i : Inv s) (h : enabled .rdGrant s = true) :
    RdGranted s (rdGrant s) := by
  obtain ⟨-, -, hocc, hne⟩ := i.rdGrant_facts h
  have hq : queuedHandles .rx s = (rxOldest s).h :: rxRest s := by
    rw [queuedHandles, rx_granted_queued i hocc]
    rfl
  have hlast : ∀ (u : State) (b : Block) (d : Dir),
      ownedBy d (answerBlock b (appTakes b.h (rdIdle u))) = ownedBy d u := fun u b d =>
    ownedBy_of_hold rfl (.of_eq (by cases d <;> rfl))
  have hin : inFlight .rx (popped .rx (take .rx s)) = inFlight .rx s :=
    inFlight_of_active (by simp [popped, take]) (by simp [popped, take])
  rw [rdGrant_of_ne hne]
  constructor
  · simp [answerBlock, appTakes, rdIdle, popped, take, rxOldest, readAnswer]
  · simp [answerBlock, appTakes, rdIdle, popped, take, rxOldest]
  · simp [answerBlock, appTakes, rdIdle, popped, take]
  · simp [answerBlock, appTakes, rdIdle, popped, take]
  · rw [ownedBy, hq]
  · rw [hlast, ownedBy, hin, rxRest]
  · rw [hlast]
    exact ownedBy_of_hold (by simp [popped, take]) (.of_eq (by simp [popped, take]))

/-- RD_GRANT gives the oldest RX Block up, to the application (R242). -/
theorem moved_rdGrant {s : State} (i : Inv s) (h : enabled .rdGrant s = true) (d : Dir) :
    Moved d [] s (rdGrant s) := by
  have g := rdGrant_granted i h
  cases d with
  | tx =>
    refine .of_same g.log ?_ g.other
    simp [Event.spares, readAnswer, obtains, givesUp]
  | rx =>
    refine .of_released (gone := [(rxOldest s).h]) g.log ?_ rfl rfl
    rw [g.before, g.after, List.append_assoc]
    exact (List.perm_append_comm (l₁ := rxRest s)).append_left _

/-- WR_GRANT as a change of the history, the application's Blocks and the queue (R247). -/
structure WrGranted (s t : State) : Prop where
  log : t.log = s.log ++ [answered .wr .ok]
  app : t.app = s.app.erase s.wrH
  phase : t.wrPhase = .idle
  after : ownedBy .tx t = ownedBy .tx s ++ [s.wrH]
  other : ownedBy .rx t = ownedBy .rx s

theorem wrGrant_granted {s : State} (i : Inv s) (h : enabled .wrGrant s = true) :
    WrGranted s (wrGrant s) := by
  obtain ⟨-, -, hocc⟩ := i.wrGrant_facts h
  have hlast : ∀ (u : State) (k : Handle) (d : Dir),
      ownedBy d (respond .wr .ok (wrIdle (appGives k u))) = ownedBy d u := fun u k d =>
    ownedBy_of_hold rfl (.of_eq (by cases d <;> rfl))
  have hin : inFlight .tx (pushed .tx (latchedBlock s) (take .tx s)) = inFlight .tx s :=
    inFlight_of_active (by simp [pushed, take]) (by simp [pushed, take])
  rw [wrGrant_of_room i hocc]
  constructor
  · simp [respond, wrIdle, appGives, pushed, take, answered]
  · simp [respond, wrIdle, appGives, pushed, take]
  · rfl
  · rw [hlast, ownedBy, ownedBy, hin, queuedHandles, tx_granted_queued i hocc, List.map_append,
      List.append_assoc]
    rfl
  · rw [hlast]
    exact ownedBy_of_hold (by simp [pushed, take]) (.of_eq (by simp [pushed, take]))

/-- WR_GRANT obtains the latched Block, from the application (R247). -/
theorem moved_wrGrant {s : State} (i : Inv s) (h : enabled .wrGrant s = true) (d : Dir) :
    Moved d (gotOf [(.tx, s.wrH)] d) s (wrGrant s) := by
  have g := wrGrant_granted i h
  cases d with
  | rx =>
    refine .of_same g.log ?_ g.other
    simp [Event.spares, answered, obtains, givesUp]
  | tx =>
    refine ⟨_, [], g.log, ?_, rfl⟩
    rw [g.after, List.append_nil]
    rfl

theorem releases_rdTimeout (s : State) : Releases s (rdTimeout s) :=
  have hidle : Releases s { s with rdPhase := .idle } :=
    ⟨moved_of_regs rfl rfl (fun d => by cases d <;> rfl), rfl, fun hw => ⟨hw, rfl⟩⟩
  hidle.trans (releases_respond (ch := .rd) (k := .timeout) (.inl (by decide)) _)

theorem releases_wrTimeout (s : State) : Releases s (wrTimeout s) :=
  have hidle : Releases s { s with wrPhase := .idle, wrH := NULL, wrSz := 0 } :=
    ⟨moved_of_regs rfl rfl (fun d => by cases d <;> rfl), rfl, nofun⟩
  hidle.trans (releases_respond (ch := .wr) (k := .timeout) (.inl (by decide)) _)

theorem releases_tick (s : State) : Releases s (tick s) :=
  ⟨moved_of_regs rfl rfl (fun d => by cases d <;> rfl), rfl, fun hw => ⟨hw, rfl⟩⟩

theorem releases_sync (d : Dir) (j : Nat) (s : State) : Releases s (sync d j s) := by
  refine releases_upd d (fun _ => ?_) s
  exact ⟨rfl, rfl, rfl, rfl⟩

/-- What a word does to ownership: what its operation does, or nothing. -/
theorem word_transfers {m : Stimulus} {s t : State} (i : Inv s)
    (hm : (∃ b, m = .command b) ∨ ∃ ew, m = .event ew) (h : runMove m s = .next t) :
    (∃ got, Transfers got s t) ∧ (t.wrPhase = .wait → (s.wrPhase = .wait ∧ t.wrH = s.wrH) ∨
      ∃ b blk size, m = .command b ∧ decodeCommand b = .ok (.write blk size) ∧
        t.wrH = blk.wired s.par.blkW) := by
  have hrel : Releases s t → (∃ got, Transfers got s t) ∧ (t.wrPhase = .wait →
      (s.wrPhase = .wait ∧ t.wrH = s.wrH) ∨
      ∃ b blk size, m = .command b ∧ decodeCommand b = .ok (.write blk size) ∧
        t.wrH = blk.wired s.par.blkW) := fun hr =>
    ⟨⟨[], hr.transfers⟩, fun hw => .inl (hr.wait hw)⟩
  rcases runWord_cases hm h with ⟨k, u, hu, rfl, hwrite⟩ | ⟨ch, rfl⟩ | rfl
  · obtain ⟨⟨got, ht⟩, hlatch⟩ := exec_transfers i hu
    refine ⟨⟨got, fun d => (ht.moved d).contributed, ht.fresh, ht.nodup, ht.app⟩, fun hw => ?_⟩
    refine (hlatch hw).imp_right ?_
    rintro ⟨blk, size, hk, hh⟩
    obtain ⟨b, hb, hd⟩ := hwrite blk size hk
    exact ⟨b, blk, size, hb, hd, hh⟩
  · exact hrel (releases_respond (k := .invalidArgument) (.inl (by decide)) s)
  · exact hrel (.refl t)

/-! ### Conservation -/

theorem ownedBy_resetWith (p : Params) (d : Dir) : ownedBy d (State.resetWith p) = [] := by
  have hq : queued d (State.resetWith p) = [] := (queued_eq_nil_iff _ _).2 (resetWith_occ p d)
  rw [ownedBy, queuedHandles, hq, inFlight_null (by rw [resetWith_stream]; rfl)]
  rfl

theorem conserved_resetWith (p : Params) (d : Dir) : Conserved d (State.resetWith p) := by
  rw [Conserved, ownedCount_eq, ownedBy_resetWith]
  rfl

theorem conserved_runMove {m : Stimulus} {s t : State} {d : Dir} (i : Inv s)
    (hc : Conserved d s) (he : enabled m s = true) (h : runMove m s = .next t) :
    Conserved d t := by
  cases m with
  | command b =>
    obtain ⟨⟨got, ht⟩, -⟩ := word_transfers i (.inl ⟨b, rfl⟩) h
    exact hc.of_moved (ht.moved d)
  | event ew =>
    obtain ⟨⟨got, ht⟩, -⟩ := word_transfers i (.inr ⟨ew, rfl⟩) h
    exact hc.of_moved (ht.moved d)
  | rdGrant => cases h; exact hc.of_moved (moved_rdGrant i he d)
  | rdTimeout => cases h; exact hc.of_moved ((releases_rdTimeout s).moved d)
  | wrGrant => cases h; exact hc.of_moved (moved_wrGrant i he d)
  | wrTimeout => cases h; exact hc.of_moved ((releases_wrTimeout s).moved d)
  | tick => cases h; exact hc.of_moved ((releases_tick s).moved d)
  | appAlloc b =>
    cases h
    exact hc.of_moved (moved_of_regs rfl rfl (fun e => by cases e <;> rfl) d)
  | appFree b =>
    cases h
    exact hc.of_moved (moved_of_regs rfl rfl (fun e => by cases e <;> rfl) d)
  | sync e j => cases h; exact hc.of_moved ((releases_sync e j s).moved d)
  | reset =>
    cases h
    exact (conserved_resetWith s.par d).of_moved
      (moved_of_regs (t := hwReset s) rfl rfl (fun e => by cases e <;> rfl) d)

/-- Launching a move enters it in the history and moves no Block. -/
theorem Launched.releases {m : Stimulus} {s s' : State} (h : Launched m s s') :
    Releases s s' := by
  rw [h.eq]
  exact .of_same (l := [.op m]) rfl (by simpa using spares_op (m := m)) rfl
    (fun d => .of_eq (by cases d <;> rfl)) ⟨rfl, rfl, rfl⟩

/-! ### Single ownership -/

theorem OneOwner.of_releases {s t : State} (o : OneOwner s) (h : Releases s t) : OneOwner t where
  nodup := h.transfers.owned_nodup o.nodup
  latched hw := by
    obtain ⟨h1, h2⟩ := h.wait hw
    rw [h2, h.app]
    exact o.latched h1

theorem oneOwner_resetWith (p : Params) : OneOwner (State.resetWith p) where
  nodup := by
    rw [owned_eq, ownedBy_resetWith, ownedBy_resetWith]
    exact List.nodup_nil
  latched := nofun

/-- A word keeps single ownership, if a WRITE names a Block of the application (R341). -/
theorem oneOwner_word {m : Stimulus} {s t : State} (i : Inv s) (o : OneOwner s)
    (hm : (∃ b, m = .command b) ∨ ∃ ew, m = .event ew)
    (hduty : ∀ b blk size, m = .command b → decodeCommand b = .ok (.write blk size) →
      blk.wired s.par.blkW ∈ s.app) (h : runMove m s = .next t) : OneOwner t := by
  obtain ⟨⟨got, ht⟩, hlatch⟩ := word_transfers i hm h
  refine ⟨ht.owned_nodup o.nodup, fun hw => ?_⟩
  rw [ht.app]
  rcases hlatch hw with ⟨h1, h2⟩ | ⟨b, blk, size, hb, hd, h2⟩
  · rw [h2]
    exact o.latched h1
  · rw [h2]
    exact hduty b blk size hb hd

/-- RD_GRANT: the Block it takes from the queue becomes the application's (R57, R242). -/
theorem oneOwner_rdGrant {s : State} (i : Inv s) (o : OneOwner s)
    (h : enabled .rdGrant s = true) : OneOwner (rdGrant s) := by
  have g := rdGrant_granted i h
  have hperm : (owned (rdGrant s)).Perm (owned s) := by
    rw [owned_eq, owned_eq, g.before, g.after, g.other, g.app]
    simp only [List.perm_iff_count, List.count_append, List.count_cons, List.count_nil]
    intro a
    omega
  refine ⟨hperm.nodup_iff.2 o.nodup, fun hw => ?_⟩
  rw [g.handle, g.app]
  exact List.mem_append_left _ (o.latched (g.phase ▸ hw))

/-- WR_GRANT: the latched Block passes from the application to the queue (R57, R247). -/
theorem oneOwner_wrGrant {s : State} (i : Inv s) (o : OneOwner s)
    (h : enabled .wrGrant s = true) : OneOwner (wrGrant s) := by
  have g := wrGrant_granted i h
  have hmem : s.app.Perm (s.wrH :: s.app.erase s.wrH) :=
    List.perm_cons_erase (o.latched (i.wrGrant_facts h).1)
  have hperm : (owned (wrGrant s)).Perm (owned s) := by
    rw [owned_eq, owned_eq, g.after, g.other, g.app]
    simp only [List.perm_iff_count, List.count_append, List.count_cons, List.count_nil] at hmem ⊢
    intro a
    have := hmem a
    omega
  refine ⟨hperm.nodup_iff.2 o.nodup, fun hw => ?_⟩
  rw [g.phase] at hw
  cases hw

/-- The application's own allocation is of a Block no one owns (R54, R57). -/
theorem oneOwner_appTakes {h : Handle} {s : State} (o : OneOwner s)
    (hl : legalAnswer s [] (.block h) = true) : OneOwner (appTakes h s) := by
  obtain ⟨-, hown, -, -⟩ := legalAnswer_block.1 hl
  refine ⟨?_, fun hw => List.mem_append_left _ (o.latched hw)⟩
  have he : owned (appTakes h s) = owned s ++ [h] := (List.append_assoc _ s.app [h]).symm
  rw [he]
  refine List.nodup_append.2 ⟨o.nodup, by simp, fun a ha b hb hab => hown ?_⟩
  rw [← List.mem_singleton.1 hb, ← hab]
  exact ha

/-- The application's own free is of a Block it owns and did not present (R242). -/
theorem oneOwner_appGives {h : Handle} {s : State} (o : OneOwner s)
    (hn : ¬ (s.wrPhase = .wait ∧ s.wrH = h)) : OneOwner (appGives h s) := by
  refine ⟨?_, fun hw => ?_⟩
  · refine o.nodup.sublist ?_
    rw [owned_eq, owned_eq]
    exact List.Sublist.append_left (List.erase_sublist (a := h) (l := s.app)) _
  · have hne : s.wrH ≠ h := fun hh => hn ⟨hw, hh⟩
    exact (List.mem_erase_of_ne hne).2 (o.latched hw)

theorem oneOwner_hwReset {s : State} (o : OneOwner s) : OneOwner (hwReset s) := by
  refine ⟨?_, nofun⟩
  have hown : ∀ d, ownedBy d (hwReset s) = [] := fun d =>
    (ownedBy_of_hold (s := State.resetWith s.par) (t := hwReset s) rfl
      (.of_eq (by cases d <;> rfl))).trans (ownedBy_resetWith s.par d)
  have happ := o.nodup
  rw [owned_eq] at happ
  rw [owned_eq, hown, hown]
  exact happ.of_append_right

theorem appFree_enabled (h : Handle) (s : State) :
    enabled (.appFree h) s = true ↔ h ∈ s.app ∧ ¬ (s.wrPhase = .wait ∧ s.wrH = h) := by
  simp only [enabled, latched, Bool.and_eq_true, Bool.not_eq_true', List.contains_eq_mem,
    decide_eq_true_eq, decide_eq_false_iff_not]
  split <;> simp_all [eq_comm]

theorem oneOwner_runMove {m : Stimulus} {s t : State} (i : Inv s) (o : OneOwner s)
    (he : enabled m s = true)
    (hduty : ∀ b blk size, m = .command b → decodeCommand b = .ok (.write blk size) →
      blk.wired s.par.blkW ∈ s.app) (h : runMove m s = .next t) : OneOwner t := by
  cases m with
  | command b => exact oneOwner_word i o (.inl ⟨b, rfl⟩) hduty h
  | event ew => exact oneOwner_word i o (.inr ⟨ew, rfl⟩) hduty h
  | rdGrant => cases h; exact oneOwner_rdGrant i o he
  | rdTimeout => cases h; exact o.of_releases (releases_rdTimeout s)
  | wrGrant => cases h; exact oneOwner_wrGrant i o he
  | wrTimeout => cases h; exact o.of_releases (releases_wrTimeout s)
  | tick => cases h; exact o.of_releases (releases_tick s)
  | appAlloc b => cases h; exact oneOwner_appTakes o he
  | appFree b => cases h; exact oneOwner_appGives o ((appFree_enabled b s).1 he).2
  | sync e j => cases h; exact o.of_releases (releases_sync e j s)
  | reset => cases h; exact oneOwner_hwReset o

/-- The duty of the application, at the state in which the move runs (R341). -/
theorem Launched.duty {m : Stimulus} {s s' : State} (h : Launched m s s') (hw : WriteDuty s)
    (b : Bundle) (blk : Handle) (size : Size) (hm : m = .command b)
    (hd : decodeCommand b = .ok (.write blk size)) : blk.wired s'.par.blkW ∈ s'.app := by
  obtain ⟨rest, hp⟩ := h.picked b hm
  rw [h.eq]
  exact hw b rest blk size (hm ▸ hp) hd

/-- Settles O16: each enabled move keeps the balance of Blocks and their single ownership. -/
theorem blocksConservedAndOwnedOnce : Obligations.BlocksConservedAndOwnedOnce := by
  unfold Obligations.BlocksConservedAndOwnedOnce
  refine ⟨conserved_resetWith, fun s t d i hc h => ?_, oneOwner_resetWith,
    fun s t i o hw h => ?_, fun s h => ⟨rfl, rfl, Iff.rfl, appFree_enabled h s⟩⟩
  · rcases step_cases h with rfl | ⟨m, s', hl, hm⟩
    · exact hc
    · exact conserved_runMove (inv_env hl.env i) (hc.of_moved (hl.releases.moved d)) hl.enabled hm
  · rcases step_cases h with rfl | ⟨m, s', hl, hm⟩
    · exact o
    · exact oneOwner_runMove (inv_env hl.env i) (o.of_releases hl.releases) hl.enabled
        (hl.duty hw) hm

end Sys2Proof.Machine
end

section
/-! The gray code in full (20_memory.md R84): its inverse bit by bit, and that one step of a counter
flips exactly one bit of its code. -/

namespace Sys2Proof.Machine

/-! ### The inverse, from the top bit down -/

theorem getLsbD_grayDecode {w i : Nat} (g : BitVec w) (hi : i < w) :
    (grayDecode g).getLsbD i = grayDecodeBit g (w - 1 - i) := by
  rw [grayDecode, BitVec.getLsbD_ofFnLE, dif_pos hi]

theorem grayDecode_top {w : Nat} (g : BitVec w) (hw : 0 < w) :
    (grayDecode g).getLsbD (w - 1) = g.getLsbD (w - 1) := by
  rw [getLsbD_grayDecode g (by omega), Nat.sub_self, grayDecodeBit]

theorem grayDecode_below {w i : Nat} (g : BitVec w) (hi : i + 1 < w) :
    (grayDecode g).getLsbD i = ((grayDecode g).getLsbD (i + 1) ^^ g.getLsbD i) := by
  have hdepth : w - 1 - i = w - 1 - (i + 1) + 1 := by omega
  have hbit : w - 1 - (w - 1 - (i + 1) + 1) = i := by omega
  rw [getLsbD_grayDecode g (by omega), getLsbD_grayDecode g hi, hdepth, grayDecodeBit, hbit]

/-! ### One step of the counter -/

/-- Adding one flips bit `i`: every bit below it is set, so the carry reaches it. -/
def carryReaches {w : Nat} (b : BitVec w) (i : Nat) : Bool :=
  decide (i < w ∧ ∀ j < i, b.getLsbD j = true)

theorem carryReaches_iff {w : Nat} {b : BitVec w} {i : Nat} :
    carryReaches b i = true ↔ i < w ∧ ∀ j < i, b.getLsbD j = true := decide_eq_true_iff

theorem getLsbD_add_one {w : Nat} (b : BitVec w) (i : Nat) :
    (b + 1#w).getLsbD i = (b.getLsbD i ^^ carryReaches b i) := by
  have hneg : b + 1#w = -(~~~b) := by rw [BitVec.neg_eq_not_add, BitVec.not_not]
  rw [hneg, BitVec.getLsbD_neg, carryReaches]
  by_cases hi : i < w
  · have hbelow : decide (∃ j < i, (~~~b).getLsbD j = true) =
        !decide (∀ j < i, b.getLsbD j = true) := by
      rw [← decide_not, decide_eq_decide]
      push Not
      exact exists_congr fun j => and_congr_right fun hj => by simp [hj.trans hi]
    simp only [hbelow, BitVec.getLsbD_not (i := i), hi, decide_true, true_and, Bool.true_and,
      Bool.not_xor_not]
  · simp [hi, BitVec.getLsbD_of_ge b i (Nat.not_lt.1 hi)]

theorem carryReaches_mono {w : Nat} {b : BitVec w} {i j : Nat} (hj : j ≤ i)
    (h : carryReaches b i = true) : carryReaches b j = true := by
  obtain ⟨hi, hset⟩ := carryReaches_iff.1 h
  exact carryReaches_iff.2 ⟨hj.trans_lt hi, fun k hk => hset k (hk.trans_le hj)⟩

/-- The carry reaches the bits up to one of them and no further. -/
theorem exists_carry_end {w : Nat} (b : BitVec w) (hw : 0 < w) :
    ∃ i < w, ∀ j, carryReaches b j = true ↔ j ≤ i := by
  have h0 : carryReaches b 0 = true := carryReaches_iff.2 ⟨hw, nofun⟩
  have hend := Nat.findGreatest_spec (P := fun k => carryReaches b k = true) (Nat.zero_le w) h0
  refine ⟨_, (carryReaches_iff.1 hend).1, fun j => ⟨fun hj => ?_, fun hj => ?_⟩⟩
  · exact Nat.le_findGreatest (carryReaches_iff.1 hj).1.le hj
  · exact carryReaches_mono hj hend

/-- A code bit is the exclusive or of two neighbouring bits: it changes where the carry ends. -/
theorem grayCode_add_one_ne_iff {w : Nat} (b : BitVec w) (j : Nat) :
    (grayCode b).getLsbD j ≠ (grayCode (b + 1#w)).getLsbD j ↔
      carryReaches b j ≠ carryReaches b (j + 1) := by
  simp only [getLsbD_grayCode, getLsbD_add_one]
  cases b.getLsbD j <;> cases b.getLsbD (j + 1) <;> simp

theorem grayCode_add_one_differs_once {w : Nat} (b : BitVec w) (hw : 0 < w) :
    ∃ i, i < w ∧ ∀ j, j < w →
      ((grayCode b).getLsbD j ≠ (grayCode (b + 1#w)).getLsbD j ↔ j = i) := by
  obtain ⟨i, hi, hend⟩ := exists_carry_end b hw
  refine ⟨i, hi, fun j _ => ?_⟩
  rw [grayCode_add_one_ne_iff, ne_eq, Bool.eq_iff_iff, hend, hend]
  omega

/-- Settles O19: decoding undoes the code bit by bit, and the bit that changes is the one where the
carry of the increment ends. -/
theorem grayCode_roundtrip_and_unit_step : Obligations.GrayCode := by
  unfold Obligations.GrayCode
  refine ⟨fun w b hw => ⟨rfl, grayDecode_grayCode b, fun g => ?_,
    grayCode_add_one_differs_once b hw⟩, by decide⟩
  exact ⟨grayDecode_top g hw, fun _ => grayDecode_below g⟩

end Sys2Proof.Machine
end

section
/-! No assertion of the model fails in a state that meets the invariants, and every move then answers
a next state (93_implementation_defined.md U7, 20_memory.md R72). -/

namespace Sys2Proof.Machine

/-! ### The assertions -/

theorem assertStream_none {d : Dir} {s : State} (h : StreamInv d s) : assertStream d s = none := by
  have hindex : ¬ (s.qcap d < (s.stream d).head ∨ s.qcap d < (s.stream d).tail) :=
    not_or.2 ⟨h.bounds.head_le.not_gt, h.bounds.tail_le.not_gt⟩
  rw [assertStream, if_neg hindex, if_neg h.flow_le.not_gt]

theorem assertAll_none {s : State} (i : Inv s) : assertAll s = none := by
  rw [assertAll, assertStream_none i.rx.stream, assertStream_none i.tx.stream]

/-! ### Every move answers a next state -/

/-- The outcome is a next state, no fault and no refusal. -/
def Completes (o : Host.Outcome State Fault Refusal) : Prop := ∃ t, o = .next t

theorem Completes.next (t : State) : Completes (.next t) := ⟨t, rfl⟩

theorem Completes.ite {p : Prop} [Decidable p] {a b : Host.Outcome State Fault Refusal}
    (ha : Completes a) (hb : Completes b) : Completes (if p then a else b) := by
  split <;> assumption

theorem start_completes (dir : DirSel) (s : State) : Completes (execTriggerStart dir s) := by
  refine .ite ?_ (.next _)
  split <;> exact .next _

theorem exec_completes (i : Instr) (s : State) : Completes (exec i s) := by
  cases i with
  | configure dir w0 w1 w2 w3 w4 => exact .ite (.ite (.next _) (.next _)) (.next _)
  | triggerStart dir => exact start_completes dir s
  | triggerStop dir => exact .ite (.next _) (.next _)
  | triggerDrain dir => exact .ite (.next _) (.next _)
  | triggerDrop dir => exact .ite (.next _) (.next _)
  | triggerPrepare dir => exact .ite (.next _) (.next _)
  | status dir => cases dir <;> exact .next _
  | read => exact .ite (.ite (.next _) (.next _)) (.next _)
  | write blk size => exact .ite (.ite (.next _) (.ite (.next _) (.next _))) (.next _)
  | teardown => exact .next _
  | rxDone status => exact .ite (.next _) (.ite (.next _) (.ite (.next _) (.next _)))
  | txDone status => exact .ite (.next _) (.ite (.next _) (.next _))
  | periphFault flags => exact .ite (.next _) (.ite (.next _) (.next _))

theorem contribute_completes (s : State) {o : Host.Outcome State Fault Refusal}
    (h : Completes o) : Completes (contribute s o) := by
  obtain ⟨t, rfl⟩ := h
  exact .next _

theorem runMove_completes (m : Stimulus) (s : State) : Completes (runMove m s) := by
  cases m with
  | command b =>
    change Completes (runCommand b s)
    unfold runCommand
    split
    · exact contribute_completes s (exec_completes _ s)
    · exact .next _
  | event ew =>
    change Completes (runEvent ew s)
    unfold runEvent
    split
    · exact contribute_completes s (exec_completes _ s)
    · exact .next _
  | _ => exact .next _

theorem advance_completes (s : State) : Completes (advance s) := by
  unfold advance
  split
  · exact runMove_completes _ _
  · split
    · exact runMove_completes _ _
    · exact .next s

/-- Settles O13: the invariants bound the indices and `flow_true`, so the assertions hold, and no
move ends in a fault or a refusal. -/
theorem invSteps : Obligations.InvSteps := by
  unfold Obligations.InvSteps
  intro s i
  rw [step, assertAll_none i]
  exact advance_completes s

end Sys2Proof.Machine
end

section
/-! On a half-duplex Device an operation that names one stream leaves the other alone (20_memory.md
R82, 60_exceptions.md R296): each procedure on stream `d` spares the side of `d.other`, and a fault
does not spread. -/

namespace Sys2Proof.Machine

/-! ### What spares a side -/

theorem SideSame.of_env {s t : State} (h : EnvChange t s) (d : Dir) : SideSame d s t := by
  rw [h.eq]
  cases d
  · exact ⟨rfl, fun _ => ⟨rfl, rfl, rfl⟩, nofun⟩
  · exact ⟨rfl, nofun, fun _ => ⟨rfl, rfl, rfl, rfl, rfl, rfl, rfl, rfl⟩⟩

theorem SideSame.refl (d : Dir) (s : State) : SideSame d s s := .of_env (.refl s) d

theorem sideSame_record (d : Dir) (e : Event) (s : State) : SideSame d s (record e s) :=
  .of_env (.record e s) d

theorem sideSame_heldOff (d : Dir) (i : Instr) (s : State) : SideSame d s (heldOff i s) :=
  .of_env (show EnvChange (heldOff i s) s from rfl) d

/-- `s` with the RX side, and what both streams share, taken from `t`. -/
abbrev rxSidePart (t s : State) : State :=
  { s with
    rx := t.rx, overrun := t.overrun, rdPhase := t.rdPhase, rdTimer := t.rdTimer,
    periphEnabled := t.periphEnabled, log := t.log }

/-- `s` with the TX side, and what both streams share, taken from `t`. -/
abbrev txSidePart (t s : State) : State :=
  { s with
    tx := t.tx, lastBlockFlag := t.lastBlockFlag, underrun := t.underrun,
    fillerSize := t.fillerSize, fillerBuf := t.fillerBuf, wrPhase := t.wrPhase,
    wrTimer := t.wrTimer, wrH := t.wrH, wrSz := t.wrSz, periphEnabled := t.periphEnabled,
    log := t.log }

/-- A change of the RX side spares the TX side. -/
theorem SideSame.of_rxSide {s t : State} (h : t = rxSidePart t s) : SideSame .tx s t := by
  rw [h]
  exact ⟨rfl, nofun, fun _ => ⟨rfl, rfl, rfl, rfl, rfl, rfl, rfl, rfl⟩⟩

/-- A change of the TX side spares the RX side. -/
theorem SideSame.of_txSide {s t : State} (h : t = txSidePart t s) : SideSame .rx s t := by
  rw [h]
  exact ⟨rfl, fun _ => ⟨rfl, rfl, rfl⟩, nofun⟩

/-! ### The procedures on one stream -/

theorem sideSame_setState (d : Dir) (q : StreamState) (s : State) :
    SideSame d.other s (setState d q s) := sideSame_upd d _ s

theorem sideSame_setCause (d : Dir) (c : FaultCause) (s : State) :
    SideSame d.other s (setCause d c s) := sideSame_upd d _ s

theorem sideSame_clearLoss (d : Dir) (s : State) : SideSame d.other s (clearLoss d s) := by
  cases d
  · exact .of_rxSide rfl
  · exact .of_txSide rfl

theorem sideSame_disable (d : Dir) (s : State) : SideSame d.other s (disable d s) := by
  rw [disable_eq]
  cases d
  · exact .of_rxSide rfl
  · exact .of_txSide rfl

theorem sideSame_arm (d : Dir) (h : Handle) (s : State) : SideSame d.other s (arm d h s) := by
  rw [arm_eq]
  cases d
  · exact .of_rxSide rfl
  · exact .of_txSide rfl

theorem sideSame_dropQueue (d : Dir) (s : State) : SideSame d.other s (dropQueue d s) := by
  obtain ⟨k, l, he⟩ := dropQueue_tail d s
  rw [he]
  cases d
  · exact .of_rxSide rfl
  · exact .of_txSide rfl

theorem sideSame_flowReset (d : Dir) (s : State) : SideSame d.other s (flowReset d s) := by
  cases d
  · rw [flowReset_rx]
    exact .of_rxSide rfl
  · rw [flowReset_tx]
    exact .of_txSide rfl

theorem sideSame_periphOn (d : Dir) (s : State) : SideSame d s (periphOn s) := by
  rw [periphOn_eq]
  cases d
  · exact .of_txSide rfl
  · exact .of_rxSide rfl

theorem sideSame_stopStream (d : Dir) (s : State) : SideSame d.other s (stopStream d s) :=
  (sideSame_disable d s).trans <| (sideSame_dropQueue d _).trans <|
    (sideSame_flowReset d _).trans <| (sideSame_setCause d _ _).trans (sideSame_setState d _ _)

theorem sideSame_prepareOne (d : Dir) (s : State) : SideSame d.other s (prepareOne d s) :=
  (sideSame_dropQueue d s).trans <| (sideSame_flowReset d _).trans <|
    (sideSame_setCause d _ _).trans <| (sideSame_clearLoss d _).trans (sideSame_setState d _ _)

theorem sideSame_configureOne (d : Dir) (c : Cfg) (s : State) :
    SideSame d.other s (configureOne d c s) := by
  rw [configureOne_eq, storeCfg]
  split <;>
    exact (sideSame_prepareOne d s).trans ((sideSame_upd d _ _).trans (sideSame_setState d _ _))

theorem sideSame_drainOne (d : Dir) (s : State) : SideSame d.other s (drainOne d s) := by
  cases d
  · exact sideSame_stopStream .rx s
  · change SideSame .rx s (drainTx s)
    rw [drainTx, abortWrite_eq]
    exact .of_txSide rfl

/-! ### Faults on a half-duplex Device -/

theorem TransferChange.fullDuplex {s t : State} (h : TransferChange t s) :
    t.fullDuplex = s.fullDuplex := by rw [h.eq]

theorem couple_of_half {s : State} (h : s.fullDuplex = false) (d : Dir) : couple d s = s :=
  if_neg fun hc => by simp [h] at hc

/-- Without full duplex a fault stays with its stream (R296). -/
theorem fault_of_half {s : State} (h : s.fullDuplex = false) (d : Dir) (c : FaultCause) :
    fault d c s = faultOne d c s :=
  couple_of_half ((transfer_faultOne d c s).fullDuplex.trans h) _

theorem sideSame_fault {s : State} (h : s.fullDuplex = false) (d : Dir) (c : FaultCause) :
    SideSame d.other s (fault d c s) := by
  rw [fault_of_half h]
  exact (sideSame_setState d _ s).trans ((sideSame_setCause d _ _).trans (sideSame_disable d _))

/-! ### Completions -/

theorem sideSame_rxDeliver {b : Block} {k : State → State} (hk : ∀ u, SideSame .tx u (k u))
    {s : State} (h : s.fullDuplex = false) : SideSame .tx s (rxDeliver b k s) := by
  rcases rxDeliver_cases b k s with ⟨_, he⟩ | ⟨_, _, he⟩ | ⟨_, _, he⟩ <;> rw [he]
  · exact (sideSame_upd .rx _ s).trans ((sideSame_upd .rx _ _).trans (hk _))
  · have hdrop : SideSame .tx s { emit (.poolFree .rx b.h) s with overrun := true } :=
      .of_rxSide rfl
    exact hdrop.trans (hk _)
  · have hfd : (emit (.poolFree .rx b.h) s).fullDuplex = false := h
    exact (sideSame_record .tx _ s).trans (sideSame_fault hfd .rx _)

/-- RX_DONE spares TX (R211 to R214). -/
theorem sideSame_rxDone {status : BitVec 8} {s t : State} (hfd : s.fullDuplex = false)
    (h : execRxDone status s = .next t) : SideSame .tx s t := by
  rcases rxDone_cases h with rfl | ⟨_, rfl⟩ | ⟨_, _, _, rfl⟩ | ⟨_, _, _, rfl⟩
  · exact .refl .tx _
  · exact sideSame_fault hfd .rx _
  · exact (sideSame_upd .rx _ s).trans (sideSame_rxDeliver
      (fun u => (sideSame_upd .rx _ u).trans (sideSame_disable .rx _)) hfd)
  · rcases rxDoneRunning_cases s with ⟨s1, ha, he⟩ | ⟨nb, s1, ha, he⟩ <;> rw [he]
    · have hfd1 := (transfer_ask ha).fullDuplex.trans hfd
      exact (SideSame.of_env (ask_env ha).1 .tx).trans (sideSame_fault hfd1 .rx _)
    · have hfd1 := (transfer_ask ha).fullDuplex.trans hfd
      have hload : SideSame .tx s1 (reloaded nb s1) := .of_rxSide rfl
      exact (SideSame.of_env (ask_env ha).1 .tx).trans <| hload.trans <|
        sideSame_rxDeliver (SideSame.refl .tx) hfd1

theorem sideSame_txSend (b : Block) (s : State) : SideSame .rx s (txSend b s) := .of_txSide rfl

theorem sideSame_drainEnd (s : State) : SideSame .rx s (drainEnd s) :=
  (sideSame_upd .tx _ s).trans (sideSame_disable .tx _)

theorem sideSame_txEmpty {s : State} (h : s.fullDuplex = false) :
    SideSame .rx s (txEmpty s) := by
  unfold txEmpty
  split
  · exact sideSame_drainEnd s
  · split
    · exact .of_txSide rfl
    · exact sideSame_fault h .tx _

theorem sideSame_txNext (b : Block) (s : State) : SideSame .rx s (txNext b s) := by
  rw [txNext, markLast_eq]
  exact .of_txSide rfl

/-- TX_DONE spares RX (R215 to R219). -/
theorem sideSame_txDone {status : BitVec 8} {s t : State} (hfd : s.fullDuplex = false)
    (h : execTxDone status s = .next t) : SideSame .rx s t := by
  have hsent : SideSame .rx s (sent s) := by
    rw [sent_eq]
    exact .of_txSide rfl
  have hfd1 : (sent s).fullDuplex = false := by rw [sent_eq]; exact hfd
  rcases txDone_cases h with rfl | ⟨_, rfl⟩ | ⟨_, _, rfl⟩
  · exact .refl .rx _
  · exact sideSame_fault hfd .tx _
  · rcases txDoneOk_cases s with ⟨_, he⟩ | ⟨_, _, he⟩ | ⟨_, _, he⟩ <;> rw [he]
    · exact hsent.trans (sideSame_drainEnd _)
    · exact hsent.trans (sideSame_txEmpty hfd1)
    · exact hsent.trans ((sideSame_upd .tx _ _).trans (sideSame_txNext _ _))

/-! ### Commands -/

theorem addressed_sel (d : Dir) : addressed (sel d) = [d] := by
  cases d <;> rfl

/-- A half-duplex TRIGGER that names one stream has it as its only target (R111). -/
theorem targets_sel {s : State} (h : s.fullDuplex = false) (d : Dir) :
    targets (sel d) s = [d] := by
  cases d <;> simp [targets, sel, addressed, h]

/-- STOP, DRAIN, DROP and PREPARE of one stream change it or are refused (R180). -/
theorem sideSame_trigger {x : Trigger} {T : List Dir} {f : State → Dir → State} {d : Dir}
    {s t : State} (hf : ∀ u, SideSame d.other u (f u d)) (hT : T = [d])
    (h : (if allLegal x T s then .next (respond .cmd .ok (T.foldl f s))
      else .next (respond .cmd .invalidState s) : Host.Outcome State Fault Refusal) = .next t) :
    SideSame d.other s t := by
  subst hT
  rcases trigger_cases h with ⟨_, rfl⟩ | rfl
  · exact (hf s).trans (sideSame_record _ _ _)
  · exact sideSame_record _ _ s

theorem sideSame_configure {d : Dir} {w0 w1 w2 w3 w4 : Word} {s t : State}
    (h : execConfigure (sel d) w0 w1 w2 w3 w4 s = .next t) : SideSame d.other s t := by
  rcases configure_cases h with ⟨_, rfl⟩ | ⟨k, rfl⟩
  · rw [addressed_sel]
    exact (sideSame_configureOne d _ s).trans (sideSame_record _ _ _)
  · exact sideSame_record _ _ s

theorem PoolChange.env {s t : State} (h : PoolChange t s) : EnvChange t s := by
  unfold EnvChange
  conv_lhs => rw [h.eq]
  rw [h.eq]

/-- START of one stream: the pools' answers change the environment alone, and only that stream is
armed (R174). -/
theorem sideSame_start {d : Dir} {s t : State} (hfd : s.fullDuplex = false)
    (h : execTriggerStart (sel d) s = .next t) : SideSame d.other s t := by
  rcases start_cases h with ⟨got, s1, ha, _, rfl⟩ | ⟨s1, ha, rfl⟩ | rfl
  · rw [targets_sel hfd] at ha ⊢
    have hgot := allocAll_start ha
    obtain ⟨k, rfl⟩ := map_fst_singleton hgot.dirs
    exact (SideSame.of_env hgot.change.env _).trans <| (sideSame_arm d k s1).trans <|
      (sideSame_periphOn _ _).trans <| (sideSame_setState d _ _).trans (sideSame_record _ _ _)
  · exact (SideSame.of_env (allocAll_none ha).env _).trans (sideSame_record _ _ _)
  · exact sideSame_record _ _ s

/-- READ spares TX (R241). -/
theorem sideSame_read {s t : State} (h : execRead s = .next t) : SideSame .tx s t := by
  rcases read_cases h with rfl | ⟨_, rfl⟩ | rfl
  · exact sideSame_record .tx _ s
  · exact .of_rxSide rfl
  · exact sideSame_heldOff .tx _ s

/-- WRITE spares RX (R246). -/
theorem sideSame_write {blk : Handle} {size : Size} {s t : State}
    (h : execWrite blk size s = .next t) : SideSame .rx s t := by
  rcases write_cases h with ⟨k, _, rfl⟩ | ⟨_, _, rfl⟩ | rfl
  · exact sideSame_record .rx _ s
  · exact .of_txSide rfl
  · exact sideSame_heldOff .rx _ s

/-- Settles O59: a command that names one stream has no other target, and a fault is not coupled. -/
theorem halfDuplexIndependence : Obligations.HalfDuplexIndependence := by
  unfold Obligations.HalfDuplexIndependence
  intro d i s t hfd hn h
  cases i with
  | configure dir w0 w1 w2 w3 w4 =>
    obtain rfl : dir = sel d := hn
    exact sideSame_configure h
  | triggerStart dir =>
    obtain rfl : dir = sel d := hn
    exact sideSame_start hfd h
  | triggerStop dir =>
    obtain rfl : dir = sel d := hn
    exact sideSame_trigger (sideSame_stopStream d) (targets_sel hfd d) h
  | triggerDrain dir =>
    obtain rfl : dir = sel d := hn
    exact sideSame_trigger (sideSame_drainOne d) (targets_sel hfd d) h
  | triggerDrop dir =>
    obtain rfl : dir = sel d := hn
    exact sideSame_trigger (sideSame_stopStream d) (targets_sel hfd d) h
  | triggerPrepare dir =>
    obtain rfl : dir = sel d := hn
    exact sideSame_trigger (sideSame_prepareOne d) (targets_sel hfd d) h
  | status dir =>
    obtain ⟨r, _, rfl⟩ := status_cases h
    exact sideSame_record _ _ s
  | read =>
    obtain rfl : d = .rx := hn
    exact sideSame_read h
  | write blk size =>
    obtain rfl : d = .tx := hn
    exact sideSame_write h
  | teardown => exact absurd hn id
  | rxDone status =>
    obtain rfl : d = .rx := hn
    exact sideSame_rxDone hfd h
  | txDone status =>
    obtain rfl : d = .tx := hn
    exact sideSame_txDone hfd h
  | periphFault flags => exact absurd hn id

end Sys2Proof.Machine
end

section
/-! The words of both ports and their fields (30_encoding.md R101, R115), which words decode and to
what (R104, R108, R109, R116), and that encoding and decoding are inverse. -/

namespace Sys2Proof

open BitVec (extractLsb' extractLsb'_append_eq_of_le extractLsb'_append_eq_of_add_le
  extractLsb'_append_eq_left extractLsb'_append_eq_right)

/-! ### Words and their fields -/

/-- Adjacent fields of a word make one field. -/
theorem bits_append_bits (m n lo : Nat) (w : Word) :
    bits m (lo + n) w ++ bits n lo w = bits (m + n) lo w :=
  BitVec.extractLsb'_append_extractLsb'_eq_extractLsb' rfl

theorem bits_whole (w : Word) : bits 32 0 w = w := BitVec.extractLsb'_eq_self

@[simp] theorem fieldOp_commandWord (op : BitVec 4) (dir : BitVec 2) (sub : BitVec 3) :
    fieldOp (commandWord op dir sub) = op := by
  change extractLsb' 28 4 (((op ++ dir) ++ 0#23) ++ sub) = op
  rw [extractLsb'_append_eq_of_le (by decide), extractLsb'_append_eq_of_le (by decide)]
  exact extractLsb'_append_eq_left

@[simp] theorem fieldDir_commandWord (op : BitVec 4) (dir : BitVec 2) (sub : BitVec 3) :
    fieldDir (commandWord op dir sub) = dir := by
  change extractLsb' 26 2 (((op ++ dir) ++ 0#23) ++ sub) = dir
  rw [extractLsb'_append_eq_of_le (by decide), extractLsb'_append_eq_of_le (by decide)]
  exact extractLsb'_append_eq_right

@[simp] theorem fieldZero_commandWord (op : BitVec 4) (dir : BitVec 2) (sub : BitVec 3) :
    fieldZero (commandWord op dir sub) = 0#23 := by
  change extractLsb' 3 23 (((op ++ dir) ++ 0#23) ++ sub) = 0#23
  rw [extractLsb'_append_eq_of_le (by decide)]
  exact extractLsb'_append_eq_right

@[simp] theorem fieldSub_commandWord (op : BitVec 4) (dir : BitVec 2) (sub : BitVec 3) :
    fieldSub (commandWord op dir sub) = sub := extractLsb'_append_eq_right

/-- A word whose reserved field is 0 is made of its other fields (R101). -/
theorem commandWord_fields {w : Word} (h : fieldZero w = 0#23) :
    commandWord (fieldOp w) (fieldDir w) (fieldSub w) = w := by
  rw [commandWord, ← h, fieldOp, fieldDir, fieldZero, fieldSub, bits_append_bits 4 2 26,
    bits_append_bits 6 23 3, bits_append_bits 29 3 0]
  exact bits_whole w

@[simp] theorem fieldOp_doneWord (ev : BitVec 4) (status : BitVec 8) :
    fieldOp (doneWord ev status) = ev := by
  change extractLsb' 28 4 ((ev ++ 0#20) ++ status) = ev
  rw [extractLsb'_append_eq_of_le (by decide)]
  exact extractLsb'_append_eq_left

@[simp] theorem bits_reserved_doneWord (ev : BitVec 4) (status : BitVec 8) :
    bits 20 8 (doneWord ev status) = 0#20 := by
  change extractLsb' 8 20 ((ev ++ 0#20) ++ status) = 0#20
  rw [extractLsb'_append_eq_of_le (by decide)]
  exact extractLsb'_append_eq_right

@[simp] theorem bits_status_doneWord (ev : BitVec 4) (status : BitVec 8) :
    bits 8 0 (doneWord ev status) = status := extractLsb'_append_eq_right

/-- A completion event word with `ew[27:8]` 0 is made of its `EV` and its status (R115). -/
theorem doneWord_fields {ew : Word} (h : bits 20 8 ew = 0#20) :
    doneWord (fieldOp ew) (bits 8 0 ew) = ew := by
  rw [doneWord, ← h, fieldOp, bits_append_bits 4 20 8, bits_append_bits 24 8 0]
  exact bits_whole ew

@[simp] theorem fieldOp_faultWord (flags : BitVec 3) : fieldOp (faultWord flags) = 0xA#4 := by
  change extractLsb' 28 4 ((0xA#4 ++ 0#25) ++ flags) = 0xA#4
  rw [extractLsb'_append_eq_of_le (by decide)]
  exact extractLsb'_append_eq_left

@[simp] theorem bits_reserved_faultWord (flags : BitVec 3) :
    bits 25 3 (faultWord flags) = 0#25 := by
  change extractLsb' 3 25 ((0xA#4 ++ 0#25) ++ flags) = 0#25
  rw [extractLsb'_append_eq_of_le (by decide)]
  exact extractLsb'_append_eq_right

@[simp] theorem bits_flags_faultWord (flags : BitVec 3) :
    bits 3 0 (faultWord flags) = flags := extractLsb'_append_eq_right

/-- `ew[27:8]` and `ew[7:3]`, the reserved bits of PERIPH_FAULT, are the field `ew[27:3]` (R116). -/
theorem faultReserved_iff (ew : Word) :
    bits 20 8 ew = 0#20 ∧ bits 5 3 ew = 0#5 ↔ bits 25 3 ew = 0#25 := by
  rw [← bits_append_bits 20 5 3 ew]
  refine ⟨fun ⟨hhigh, hlow⟩ => by rw [hhigh, hlow]; rfl, fun h => ⟨?_, ?_⟩⟩
  · exact extractLsb'_append_eq_left.symm.trans (by rw [h]; rfl)
  · exact extractLsb'_append_eq_right.symm.trans (by rw [h]; rfl)

/-- A PERIPH_FAULT word whose reserved bits are 0 is made of its flags (R115). -/
theorem faultWord_fields {ew : Word} (hev : fieldOp ew = 0xA#4) (h : bits 25 3 ew = 0#25) :
    faultWord (bits 3 0 ew) = ew := by
  rw [faultWord, ← h, ← hev, fieldOp, bits_append_bits 4 25 3, bits_append_bits 29 3 0]
  exact bits_whole ew

/-! ### Directions and opcodes -/

@[simp] theorem dirOfBits_code (dir : DirSel) : dirOfBits dir.code = some dir := by
  cases dir <;> rfl

/-- A DIR field is 3, which is reserved, or the code of a direction (R102). -/
theorem dirOfBits_cases (v : BitVec 2) :
    (v = 3#2 ∧ dirOfBits v = none) ∨ ∃ dir : DirSel, v = dir.code := by
  by_cases h0 : v = 0#2
  · exact .inr ⟨.rx, h0⟩
  by_cases h1 : v = 1#2
  · exact .inr ⟨.tx, h1⟩
  by_cases h2 : v = 2#2
  · exact .inr ⟨.both, h2⟩
  obtain rfl : v = 3#2 := by bv_omega
  exact .inl ⟨rfl, rfl⟩

/-- `OP` names an A-port operation (R104). -/
abbrev OpLegal (op : BitVec 4) : Prop := ¬(op < 1#4 ∨ 6#4 < op)

theorem OpLegal.cases {op : BitVec 4} (h : OpLegal op) :
    op = 1#4 ∨ op = 2#4 ∨ op = 3#4 ∨ op = 4#4 ∨ op = 5#4 ∨ op = 6#4 := by
  unfold OpLegal at h
  bv_omega

theorem opLegal_iff (op : BitVec 4) : OpLegal op ↔ ¬(op = 0#4 ∨ 7#4 ≤ op) := by
  unfold OpLegal
  bv_omega

/-! ### Commands -/

/-- The operations that share `OP` 2: what `SUB` selects has that `SUB` in its word (R103). -/
theorem triggerOfSub_some {sub : BitVec 3} {dir : DirSel} {i : Instr}
    (h : triggerOfSub sub dir = some i) :
    i.wellFormed = true ∧ i.port = .a ∧ (encode i).cw = commandWord 2#4 dir.code sub := by
  unfold triggerOfSub at h
  split at h
  · cases h; subst sub; exact ⟨rfl, rfl, rfl⟩
  split at h
  · cases h; subst sub; exact ⟨rfl, rfl, rfl⟩
  split at h
  · cases h; subst sub; exact ⟨rfl, rfl, rfl⟩
  split at h
  · cases h; subst sub; exact ⟨rfl, rfl, rfl⟩
  split at h
  · cases h; subst sub; exact ⟨rfl, rfl, rfl⟩
  · cases h

theorem triggerOfSub_none_iff (sub : BitVec 3) (dir : DirSel) :
    triggerOfSub sub dir = none ↔ 5#3 ≤ sub := by
  revert sub
  cases dir <;> decide

/-- The other operations, on a direction their `OP` accepts (R104). -/
theorem plainOfOp_word {op : BitVec 4} {dir : DirSel} (b : Bundle) (hop : OpLegal op)
    (htrigger : op ≠ 2#4) (hdir : dirAccepted op dir = true) :
    (plainOfOp op dir b).wellFormed = true ∧ (plainOfOp op dir b).port = .a ∧
      (encode (plainOfOp op dir b)).cw = commandWord op dir.code 0#3 := by
  rcases hop.cases with rfl | rfl | rfl | rfl | rfl | rfl
  · exact ⟨rfl, rfl, rfl⟩
  · exact absurd rfl htrigger
  · exact ⟨hdir, rfl, rfl⟩
  · obtain rfl : dir = .rx := of_decide_eq_true hdir
    exact ⟨rfl, rfl, rfl⟩
  · obtain rfl : dir = .tx := of_decide_eq_true hdir
    exact ⟨rfl, rfl, rfl⟩
  · obtain rfl : dir = .both := of_decide_eq_true hdir
    exact ⟨rfl, rfl, rfl⟩

theorem decodeCommand_trigger {b : Bundle} {dir : DirSel} {sub : BitVec 3} {i : Instr}
    (hw : b.cw = commandWord 2#4 dir.code sub) (hsub : triggerOfSub sub dir = some i) :
    decodeCommand b = .ok i := by
  simp [decodeCommand, hw, dirAccepted, hsub]

theorem decodeCommand_plain {b : Bundle} {op : BitVec 4} {dir : DirSel} (hop : OpLegal op)
    (htrigger : op ≠ 2#4) (hdir : dirAccepted op dir = true)
    (hw : b.cw = commandWord op dir.code 0#3) :
    decodeCommand b = .ok (plainOfOp op dir b) := by
  rw [decodeCommand, hw, fieldOp_commandWord, if_neg hop]
  simp [htrigger, hdir]

/-- The legal command words, in full (R104). -/
theorem decodeCommand_ok_iff {b : Bundle} {i : Instr} :
    decodeCommand b = .ok i ↔
      (∃ (dir : DirSel) (sub : BitVec 3), b.cw = commandWord 2#4 dir.code sub ∧
        triggerOfSub sub dir = some i) ∨
      ∃ (op : BitVec 4) (dir : DirSel), OpLegal op ∧ op ≠ 2#4 ∧ dirAccepted op dir = true ∧
        b.cw = commandWord op dir.code 0#3 ∧ i = plainOfOp op dir b := by
  constructor
  · intro h
    unfold decodeCommand at h
    split at h
    · cases h
    rename_i hop
    split at h
    · cases h
    rename_i hzero
    have hw := (commandWord_fields (not_not.1 hzero)).symm
    rcases dirOfBits_cases (fieldDir b.cw) with ⟨_, hnone⟩ | ⟨dir, hdir⟩
    · rw [hnone] at h
      cases h
    rw [hdir] at hw
    simp only [hdir, dirOfBits_code] at h
    split at h
    · rename_i hacc
      split at h
      · rename_i htrigger
        rw [htrigger] at hw
        cases hs : triggerOfSub (fieldSub b.cw) dir with
        | none => rw [hs] at h; cases h
        | some j =>
          rw [hs] at h
          cases h
          exact .inl ⟨dir, _, hw, hs⟩
      · rename_i htrigger
        split at h
        · rename_i hsub
          rw [hsub] at hw
          cases h
          exact .inr ⟨_, dir, hop, htrigger, hacc, hw, rfl⟩
        · cases h
    · cases h
  · rintro (⟨dir, sub, hw, hsub⟩ | ⟨op, dir, hop, htrigger, hdir, hw, rfl⟩)
    · exact decodeCommand_trigger hw hsub
    · exact decodeCommand_plain hop htrigger hdir hw

/-- Whatever an A-port word decodes to is well formed, belongs to that port, and has that word. -/
theorem encode_decodeCommand {b : Bundle} {i : Instr} (h : decodeCommand b = .ok i) :
    i.wellFormed = true ∧ i.port = .a ∧ (encode i).cw = b.cw := by
  rcases decodeCommand_ok_iff.1 h with
    ⟨dir, sub, hw, hsub⟩ | ⟨op, dir, hop, htrigger, hdir, hw, rfl⟩
  · rw [hw]
    exact triggerOfSub_some hsub
  · rw [hw]
    exact plainOfOp_word b hop htrigger hdir

theorem code_inj {dir e : DirSel} : dir.code = e.code ↔ dir = e := by
  refine ⟨fun h => ?_, congrArg _⟩
  simpa using congrArg dirOfBits h

/-- The DIR fields that a legal `OP` refuses, in full (R104, R109). -/
theorem dirRefused_iff {op : BitVec 4} (hop : OpLegal op) (v : BitVec 2) :
    ¬(∃ dir : DirSel, v = dir.code ∧ dirAccepted op dir = true) ↔
      v = 3#2 ∨ (op = 3#4 ∧ v = 2#2) ∨ (op = 4#4 ∧ v ≠ 0#2) ∨ (op = 5#4 ∧ v ≠ 1#2) ∨
        (op = 6#4 ∧ v ≠ 2#2) := by
  rcases dirOfBits_cases v with ⟨rfl, hnone⟩ | ⟨dir, rfl⟩
  · refine iff_of_true ?_ (.inl rfl)
    rintro ⟨dir, hdir, _⟩
    rw [hdir, dirOfBits_code] at hnone
    cases hnone
  · simp only [code_inj, exists_eq_left']
    rcases hop.cases with rfl | rfl | rfl | rfl | rfl | rfl <;> cases dir <;> decide

/-- The legal command words by the checks of R108 steps 2 to 5. -/
theorem decodeCommand_decodes_iff (b : Bundle) :
    (∃ i, decodeCommand b = .ok i) ↔
      OpLegal (fieldOp b.cw) ∧ fieldZero b.cw = 0#23 ∧
      (∃ dir : DirSel, fieldDir b.cw = dir.code ∧ dirAccepted (fieldOp b.cw) dir = true) ∧
      (fieldOp b.cw = 2#4 → ¬ 5#3 ≤ fieldSub b.cw) ∧
      (fieldOp b.cw ≠ 2#4 → fieldSub b.cw = 0#3) := by
  constructor
  · rintro ⟨i, hi⟩
    rcases decodeCommand_ok_iff.1 hi with
      ⟨dir, sub, hw, hsub⟩ | ⟨op, dir, hop, htrigger, hdir, hw, rfl⟩
    · have hlow : ¬ 5#3 ≤ sub := fun h => by simp [(triggerOfSub_none_iff sub dir).2 h] at hsub
      rw [hw]
      simpa [OpLegal, dirAccepted, code_inj] using hlow
    · rw [hw]
      simpa [htrigger, code_inj, hdir] using hop
  · rintro ⟨hop, hzero, ⟨dir, hdir, hacc⟩, hlow, hsub⟩
    have hw := (commandWord_fields hzero).symm
    rw [hdir] at hw
    by_cases htrigger : fieldOp b.cw = 2#4
    · obtain ⟨i, hi⟩ := Option.ne_none_iff_exists'.1
        (mt (triggerOfSub_none_iff (fieldSub b.cw) dir).1 (hlow htrigger))
      rw [htrigger] at hw
      exact ⟨i, decodeCommand_trigger hw hi⟩
    · rw [hsub htrigger] at hw
      exact ⟨_, decodeCommand_plain hop htrigger hacc hw⟩

theorem error_iff_not_ok {ε α : Type} (x : Except ε α) :
    (∃ e, x = .error e) ↔ ¬ ∃ a, x = .ok a := by
  cases x <;> simp

/-- The illegal command words, in full (R109). -/
theorem decodeCommand_error_iff (b : Bundle) :
    (∃ e, decodeCommand b = .error e) ↔
      (fieldOp b.cw = 0#4 ∨ 7#4 ≤ fieldOp b.cw) ∨
      fieldDir b.cw = 3#2 ∨
      (fieldOp b.cw = 3#4 ∧ fieldDir b.cw = 2#2) ∨
      (fieldOp b.cw = 4#4 ∧ fieldDir b.cw ≠ 0#2) ∨
      (fieldOp b.cw = 5#4 ∧ fieldDir b.cw ≠ 1#2) ∨
      (fieldOp b.cw = 6#4 ∧ fieldDir b.cw ≠ 2#2) ∨
      fieldZero b.cw ≠ 0#23 ∨
      (fieldOp b.cw = 2#4 ∧ 5#3 ≤ fieldSub b.cw) ∨
      (fieldOp b.cw ≠ 2#4 ∧ fieldSub b.cw ≠ 0#3) := by
  rw [error_iff_not_ok, decodeCommand_decodes_iff]
  have hlegal := opLegal_iff (fieldOp b.cw)
  by_cases hop : OpLegal (fieldOp b.cw)
  · rw [not_and_or, hlegal, not_not, not_and_or, not_and_or, dirRefused_iff hop, not_and_or,
      Classical.not_imp, not_not, Classical.not_imp, or_left_comm (a := ¬_ = 0#23)]
    simp only [or_assoc, ne_eq]
  · exact iff_of_true (fun h => hop h.1) (.inl (not_not.1 (mt hlegal.2 hop)))

/-! ### Events -/

/-- The illegal event words, in full (R116). -/
theorem decodeEvent_error_iff (ew : Word) :
    (∃ e, decodeEvent ew = .error e) ↔
      (bits 4 28 ew ≠ 0x8#4 ∧ bits 4 28 ew ≠ 0x9#4 ∧ bits 4 28 ew ≠ 0xA#4) ∨
      bits 20 8 ew ≠ 0#20 ∨ (bits 4 28 ew = 0xA#4 ∧ bits 5 3 ew ≠ 0#5) := by
  unfold decodeEvent fieldOp
  by_cases h8 : bits 4 28 ew = 0x8#4
  · by_cases hr : bits 20 8 ew = 0#20 <;> simp [h8, hr]
  by_cases h9 : bits 4 28 ew = 0x9#4
  · by_cases hr : bits 20 8 ew = 0#20 <;> simp [h9, hr]
  by_cases hA : bits 4 28 ew = 0xA#4
  · by_cases hr : bits 20 8 ew = 0#20 <;> by_cases hr2 : bits 5 3 ew = 0#5 <;> simp [hA, hr, hr2]
  · simp [h8, h9, hA]

/-- The legal event words, in full (R115). -/
theorem decodeEvent_ok_iff {ew : Word} {i : Instr} :
    decodeEvent ew = .ok i ↔
      (∃ status, ew = doneWord 0x8#4 status ∧ i = .rxDone status) ∨
      (∃ status, ew = doneWord 0x9#4 status ∧ i = .txDone status) ∨
      ∃ flags, ew = faultWord flags ∧ i = .periphFault flags := by
  constructor
  · intro h
    unfold decodeEvent at h
    split at h
    · rename_i hev
      split at h <;> cases h
      rename_i hr
      exact .inl ⟨_, by rw [← hev, doneWord_fields hr], rfl⟩
    split at h
    · rename_i hev
      split at h <;> cases h
      rename_i hr
      exact .inr (.inl ⟨_, by rw [← hev, doneWord_fields hr], rfl⟩)
    split at h
    · rename_i hev
      split at h <;> cases h
      rename_i hr
      exact .inr (.inr ⟨_, (faultWord_fields hev ((faultReserved_iff ew).1 hr)).symm, rfl⟩)
    · cases h
  · rintro (⟨status, rfl, rfl⟩ | ⟨status, rfl, rfl⟩ | ⟨flags, rfl, rfl⟩)
    · simp [decodeEvent]
    · simp [decodeEvent]
    · simp [decodeEvent, faultReserved_iff]

/-- Whatever an event word decodes to is well formed, belongs to the B port, and has that word. -/
theorem encode_decodeEvent {ew : Word} {i : Instr} (h : decodeEvent ew = .ok i) :
    i.wellFormed = true ∧ i.port = .b ∧ (encode i).cw = ew := by
  rcases decodeEvent_ok_iff.1 h with
    ⟨status, rfl, rfl⟩ | ⟨status, rfl, rfl⟩ | ⟨flags, rfl, rfl⟩ <;>
  exact ⟨rfl, rfl, rfl⟩

/-! ### Encoding and decoding are inverse -/

theorem decode_encode {i : Instr} (h : i.wellFormed = true) : decode i.port (encode i) = .ok i := by
  cases i with
  | configure dir w0 w1 w2 w3 w4 =>
    exact decodeCommand_plain (op := 1#4) (by decide) (by decide) rfl rfl
  | triggerStart dir => exact decodeCommand_trigger (sub := 0#3) rfl rfl
  | triggerStop dir => exact decodeCommand_trigger (sub := 1#3) rfl rfl
  | triggerDrain dir => exact decodeCommand_trigger (sub := 2#3) rfl rfl
  | triggerDrop dir => exact decodeCommand_trigger (sub := 3#3) rfl rfl
  | triggerPrepare dir => exact decodeCommand_trigger (sub := 4#3) rfl rfl
  | status dir => exact decodeCommand_plain (op := 3#4) (by decide) (by decide) h rfl
  | read => exact decodeCommand_plain (op := 4#4) (dir := .rx) (by decide) (by decide) rfl rfl
  | write blk size =>
    exact decodeCommand_plain (op := 5#4) (dir := .tx) (by decide) (by decide) rfl rfl
  | teardown => exact decodeCommand_plain (op := 6#4) (dir := .both) (by decide) (by decide) rfl rfl
  | rxDone status => exact decodeEvent_ok_iff.2 (.inl ⟨status, rfl, rfl⟩)
  | txDone status => exact decodeEvent_ok_iff.2 (.inr (.inl ⟨status, rfl, rfl⟩))
  | periphFault flags => exact decodeEvent_ok_iff.2 (.inr (.inr ⟨flags, rfl, rfl⟩))

/-- Settles O1, one operation after another, from the equations of the decoder on a word made of
its fields. -/
theorem decodeOfEncode : Obligations.DecodeOfEncode := by
  unfold Obligations.DecodeOfEncode
  exact fun _ h => decode_encode h

/-- Settles O2: the legal words of each port are those of its operations. -/
theorem encodeOfDecode : Obligations.EncodeOfDecode := by
  unfold Obligations.EncodeOfDecode
  intro p b i h
  cases p with
  | a => exact encode_decodeCommand h
  | b => exact encode_decodeEvent h

/-- A word written out decodes to the operation whose word it is. -/
theorem decode_word {w : Word} (i : Instr) (h : i.wellFormed = true) (hw : encode i = .ofWord w) :
    decode i.port (.ofWord w) = .ok i :=
  hw ▸ decode_encode h

/-- Settles O5: each word is the encoding of its operation. -/
theorem specWordsDecode : Obligations.SpecWordsDecode := by
  unfold Obligations.SpecWordsDecode
  exact ⟨decode_word (.triggerStart .both) rfl (by decide),
    decode_word (.triggerStop .tx) rfl (by decide), decode_word (.status .tx) rfl (by decide),
    decode_word .read rfl (by decide), decode_word .teardown rfl (by decide),
    decode_word (.rxDone 5#8) rfl (by decide), decode_word (.periphFault 4#3) rfl (by decide)⟩

end Sys2Proof
end

section
/-! What one step takes (20_memory.md R80, 30_encoding.md R108, R110, R116, R117): the first presented
move that is enabled, else the hardware's own; how a legal and an illegal word is run; and the targets
of a TRIGGER (R111). -/

namespace Sys2Proof.Machine

/-! ### The move a step takes -/

theorem pick_cons_enabled {m : Stimulus} {s : State} (h : enabled m s = true)
    (l : List Stimulus) : pick s (m :: l) = some (m, l) := if_pos h

/-- A move that is held off stays presented (R110). -/
theorem pick_cons_held {x m : Stimulus} {s : State} {l r : List Stimulus}
    (hx : enabled x s = false) (h : pick s l = some (m, r)) :
    pick s (x :: l) = some (m, x :: r) := by
  simp [pick, hx, h]

theorem pick_none {s : State} {l : List Stimulus} (h : ∀ m ∈ l, enabled m s = false) :
    pick s l = none := by
  induction l with
  | nil => rfl
  | cons m l ih =>
    rw [List.forall_mem_cons] at h
    simp [pick, h.1, ih h.2]

theorem step_of_pick {s : State} {m : Stimulus} {rest : List Stimulus} (ha : assertAll s = none)
    (h : pick s s.pending = some (m, rest)) : step s = runMove m (taken m rest s) := by
  rw [step, ha]
  simp only [advance, h]

/-- The step takes the move that is presented first, if it is enabled. -/
theorem step_presented {s : State} {m : Stimulus} {rest : List Stimulus}
    (ha : assertAll s = none) (hp : s.pending = m :: rest) (hm : enabled m s = true) :
    step s = runMove m (taken m rest s) :=
  step_of_pick ha (by rw [hp, pick_cons_enabled hm])

/-- With nothing presented enabled the step is the hardware's own move. -/
theorem step_own {s : State} {m : Stimulus} (ha : assertAll s = none)
    (hp : ∀ x ∈ s.pending, enabled x s = false) (h : ownMove s = some m) :
    step s = runMove m (ownTaken m s) := by
  rw [step, ha]
  simp only [advance, pick_none hp, h]

theorem step_waits {s : State} (ha : assertAll s = none)
    (hp : ∀ x ∈ s.pending, enabled x s = false) (h : ownMove s = none) : step s = .next s := by
  rw [step, ha]
  simp only [advance, pick_none hp, h]

/-- With no grant and no timeout enabled the hardware's own move is a SYNC, if a view lags (R117). -/
theorem ownMove_sync {s : State} (h1 : enabled .rdGrant s = false)
    (h2 : enabled .rdTimeout s = false) (h3 : enabled .wrGrant s = false)
    (h4 : enabled .wrTimeout s = false) :
    ownMove s =
      if 0 < viewLag .rx s then some (.sync .rx (drawnJ .rx s))
      else if 0 < viewLag .tx s then some (.sync .tx (drawnJ .tx s))
      else none := by
  simp [ownMove, h1, h2, h3, h4]

/-- The choice of `j` the synchroniser draws lies between 1 and the lag (R151). -/
theorem drawnJ_bounds {d : Dir} {s : State} (h : 0 < viewLag d s) :
    1 ≤ drawnJ d s ∧ drawnJ d s ≤ viewLag d s := by
  simpa [enabled] using drawnJ_enabled h

/-- The hardware's own SYNC advances a view by 1 to its lag (R151). -/
theorem step_own_sync {d : Dir} {s : State} (ha : assertAll s = none)
    (hp : ∀ x ∈ s.pending, enabled x s = false) (hlag : 0 < viewLag d s)
    (h : ownMove s = some (.sync d (drawnJ d s))) :
    ∃ j, 1 ≤ j ∧ j ≤ viewLag d s ∧ step s = .next (sync d j (ownTaken (.sync d j) s)) := by
  obtain ⟨hlow, hhigh⟩ := drawnJ_bounds hlag
  exact ⟨drawnJ d s, hlow, hhigh, step_own (m := .sync d _) ha hp h⟩

/-- Settles O8: `ownMove` tries the grants and timeouts in the arbiter's order, then the views. -/
theorem ownStepOrWait : Obligations.OwnStepOrWait := by
  unfold Obligations.OwnStepOrWait
  intro s ha hp
  refine ⟨fun h1 => step_own (m := .rdGrant) ha hp ?_,
    fun h1 h2 => step_own (m := .rdTimeout) ha hp ?_, fun h1 h2 =>
    ⟨fun h3 => step_own (m := .wrGrant) ha hp ?_,
      fun h3 h4 => step_own (m := .wrTimeout) ha hp ?_, fun h3 h4 =>
      ⟨fun hrx => step_own_sync ha hp hrx ?_, fun hrx htx => step_own_sync ha hp htx ?_,
        fun hrx htx => step_waits ha hp ?_⟩⟩⟩
  · simp [ownMove, h1]
  · simp [ownMove, h1, h2]
  · simp [ownMove, h1, h2, h3]
  · simp [ownMove, h1, h2, h3, h4]
  · rw [ownMove_sync h1 h2 h3 h4, if_pos hrx]
  · rw [ownMove_sync h1 h2 h3 h4, if_neg (by omega), if_pos htx]
  · rw [ownMove_sync h1 h2 h3 h4, if_neg (by omega), if_neg (by omega)]

/-! ### A command for a busy channel -/

theorem execRead_busy {s : State} (h : s.rdPhase = .wait) :
    execRead s = .next (heldOff .read s) :=
  if_neg (by simp [channelIdle, h])

theorem execWrite_busy {s : State} (h : s.wrPhase = .wait) (blk : Handle) (size : Size) :
    execWrite blk size s = .next (heldOff (.write blk size) s) :=
  if_neg (by simp [channelIdle, h])

/-- Settles O7: `pick` passes over a command whose channel is busy, and `exec` presents it again. -/
theorem busyChannelHoldsOff : Obligations.BusyChannelHoldsOff := by
  unfold Obligations.BusyChannelHoldsOff
  refine fun s => ⟨fun b m rest ha hp hbusy hm => ?_, execRead_busy, fun blk size h =>
    execWrite_busy h blk size⟩
  refine step_of_pick (rest := .command b :: rest) ha ?_
  rw [hp]
  exact pick_cons_held hbusy (pick_cons_enabled hm rest)

/-! ### Words -/

theorem runCommand_ok {b : Bundle} {i : Instr} (h : decodeCommand b = .ok i) (s : State) :
    runCommand b s = contribute s (exec i s) := by
  rw [runCommand, h]

theorem runCommand_error {b : Bundle} (h : ∃ e, decodeCommand b = .error e) (s : State) :
    runCommand b s = .next (refuseWord (route b.cw) s) := by
  obtain ⟨e, he⟩ := h
  rw [runCommand, he]

theorem runEvent_ok {ew : Word} {i : Instr} (h : decodeEvent ew = .ok i) (s : State) :
    runEvent ew s = contribute s (exec i s) := by
  rw [runEvent, h]

theorem runEvent_error {ew : Word} (h : ∃ e, decodeEvent ew = .error e) (s : State) :
    runEvent ew s = .next s := by
  obtain ⟨e, he⟩ := h
  rw [runEvent, he]

/-- What an operation appended stands in the history in the order of R94. -/
theorem contribute_next {s t : State} {l : List Event} (h : t.log = s.log ++ l) :
    contribute s (.next t) = .next { t with log := s.log ++ byKind l } := by
  rw [contribute, h, List.drop_left]

/-- Settles O3: the decoder's checks, and the step of a word that one of them refuses. -/
theorem illegalCommandAnswered : Obligations.IllegalCommandAnswered := by
  unfold Obligations.IllegalCommandAnswered
  refine fun b s rest => ⟨decodeCommand_error_iff b, fun ha hp hidle herr => ?_⟩
  rw [step_presented ha hp hidle]
  refine (runCommand_error herr _).trans ?_
  rw [refuseWord, respond_eq, route]
  simp [taken, record, answered]

/-- Settles O4: the decoder's checks, and that `runEvent` does nothing with a word that one of them
refuses. -/
theorem illegalEventDiscarded : Obligations.IllegalEventDiscarded := by
  unfold Obligations.IllegalEventDiscarded
  exact fun ew s => ⟨decodeEvent_error_iff ew, fun h => runEvent_error h s⟩

/-- Settles O6: the presented word is taken and decoded, and what `exec` appended is put in order. -/
theorem stepRunsDecoded : Obligations.StepRunsDecoded := by
  unfold Obligations.StepRunsDecoded
  rintro s _ rest m i ha hp hm rfl
  have hrun : step s = contribute (taken m rest s) (exec i (taken m rest s)) := by
    rcases hm with ⟨b, rfl, hidle, hdec⟩ | ⟨b, rfl, hdec⟩
    · exact (step_presented ha hp hidle).trans (runCommand_ok hdec _)
    · exact (step_presented ha hp rfl).trans (runEvent_ok hdec _)
  refine ⟨hrun, fun t ht => ?_⟩
  have hexec : exec i (taken m rest s) = .next t := ht
  obtain ⟨l, hl⟩ := exec_log hexec
  refine ⟨l, hl, ?_⟩
  rw [hrun, hexec, contribute_next hl]
  simp [byKind, taken]

/-! ### The targets of a TRIGGER -/

theorem targets_full {s : State} (h : s.fullDuplex = true) (dir : DirSel) :
    targets dir s = [.rx, .tx] := if_pos (.inr h)

theorem targets_half {s : State} (h : s.fullDuplex = false) (dir : DirSel) :
    targets dir s = addressed dir := by
  cases dir <;> simp [targets, addressed, h]

/-- Settles O37: a TRIGGER reads its DIR through `targets` alone. -/
theorem triggerTargets : Obligations.TriggerTargets := by
  unfold Obligations.TriggerTargets
  refine fun dir s => ⟨fun h => targets_full h dir, fun h => targets_half h dir, fun h => ?_⟩
  have hboth : targets dir s = targets .both s :=
    (targets_full h dir).trans (targets_full h .both).symm
  simp only [exec, execTriggerStart, execTriggerStop, execTriggerDrain, execTriggerDrop,
    execTriggerPrepare, hboth, and_self]

end Sys2Proof.Machine
end

section
/-! A CMD operation is answered once, at its end (30_encoding.md R110): no procedure it is built from
writes a response of the CMD channel. -/

namespace Sys2Proof.Machine

/-! ### The responses of the CMD channel -/

/-- The responses on the CMD channel among history entries, in order. -/
def cmdRespsOf (l : List Event) : List Response :=
  (respsOf l).filter fun r => decide (r.ch = .cmd)

/-- The responses given on the CMD channel since reset, in order. -/
def cmdResponses (s : State) : List Response := cmdRespsOf s.log

theorem cmdRespsOf_append (l m : List Event) :
    cmdRespsOf (l ++ m) = cmdRespsOf l ++ cmdRespsOf m := by
  rw [cmdRespsOf, respsOf_append, List.filter_append, cmdRespsOf, cmdRespsOf]

theorem cmdRespsOf_eq_nil_iff (l : List Event) :
    cmdRespsOf l = [] ↔ ∀ q ∈ respsOf l, q.ch ≠ .cmd := by
  simp [cmdRespsOf, List.filter_eq_nil_iff]

theorem cmdRespsOf_calls (l : List Call) : cmdRespsOf (l.map .call) = [] := by
  rw [cmdRespsOf_eq_nil_iff]
  simp [respsOf, Event.resp?, List.mem_filterMap]

theorem cmdRespsOf_waitEvents (d : Dir) (s : State) : cmdRespsOf (waitEvents d s) = [] := by
  cases d <;> unfold waitEvents <;> dsimp only <;> split <;> rfl

/-- What was appended holds no CMD response. -/
theorem cmdResponses_of_append {s t : State} {l : List Event} (h : t.log = s.log ++ l)
    (hl : cmdRespsOf l = []) : cmdResponses t = cmdResponses s := by
  rw [cmdResponses, h, cmdRespsOf_append, hl, List.append_nil, cmdResponses]

theorem cmdResponses_of_log {s t : State} (h : t.log = s.log) :
    cmdResponses t = cmdResponses s := by
  rw [cmdResponses, h, cmdResponses]

theorem cmdResponses_record_resp {r : Response} (h : r.ch = .cmd) (s : State) :
    cmdResponses (record (.resp r) s) = cmdResponses s ++ [r] := by
  rw [cmdResponses, record_log, cmdRespsOf_append, cmdResponses]
  simp [cmdRespsOf, respsOf, Event.resp?, h]

theorem cmdResponses_foldl {α : Type} {f : State → α → State}
    (h : ∀ u a, cmdResponses (f u a) = cmdResponses u) (l : List α) (s : State) :
    cmdResponses (l.foldl f s) = cmdResponses s := by
  induction l generalizing s with
  | nil => rfl
  | cons a l ih => exact (ih _).trans (h s a)

/-! ### The procedures -/

@[simp] theorem cmdResponses_emit (c : Call) (s : State) :
    cmdResponses (emit c s) = cmdResponses s :=
  cmdResponses_of_append (l := [.call c]) rfl rfl

@[simp] theorem cmdResponses_upd (d : Dir) (f : Stream → Stream) (s : State) :
    cmdResponses (s.upd d f) = cmdResponses s :=
  cmdResponses_of_log (upd_log s d f)

@[simp] theorem cmdResponses_clearLoss (d : Dir) (s : State) :
    cmdResponses (clearLoss d s) = cmdResponses s :=
  cmdResponses_of_log (clearLoss_log d s)

@[simp] theorem cmdResponses_dropQueue (d : Dir) (s : State) :
    cmdResponses (dropQueue d s) = cmdResponses s := by
  unfold dropQueue
  generalize s.qcap d = n
  induction n generalizing s with
  | zero => rfl
  | succ n ih =>
    by_cases he : (s.stream d).head = (s.stream d).tail
    · rw [dropLoop, pop_of_eq he]
    · rw [dropLoop, pop_of_ne he]
      simp [ih, popped]

/-- FlowReset answers a waiting READ or WRITE, on its own channel (40_queue_flow.md R152). -/
@[simp] theorem cmdResponses_flowReset (d : Dir) (s : State) :
    cmdResponses (flowReset d s) = cmdResponses s := by
  refine cmdResponses_of_append ?_ (cmdRespsOf_waitEvents d s)
  cases d
  · rw [flowReset_rx]
  · rw [flowReset_tx]

@[simp] theorem cmdResponses_arm (d : Dir) (h : Handle) (s : State) :
    cmdResponses (arm d h s) = cmdResponses s :=
  cmdResponses_of_append (by rw [arm_eq]) (cmdRespsOf_calls _)

@[simp] theorem cmdResponses_disable (d : Dir) (s : State) :
    cmdResponses (disable d s) = cmdResponses s :=
  cmdResponses_of_append (by rw [disable_eq]) (cmdRespsOf_calls _)

@[simp] theorem cmdResponses_periphOn (s : State) : cmdResponses (periphOn s) = cmdResponses s := by
  unfold periphOn
  split
  · exact cmdResponses_emit .periphEnable s
  · rfl

/-- AbortWrite answers on the WR channel (43_read_write.md R250). -/
@[simp] theorem cmdResponses_drainTx (s : State) : cmdResponses (drainTx s) = cmdResponses s := by
  refine cmdResponses_of_append (by rw [drainTx, abortWrite_eq]; rfl) ?_
  split <;> rfl

theorem cmdResponses_stopStream (d : Dir) (s : State) :
    cmdResponses (stopStream d s) = cmdResponses s := by
  simp [stopStream, setState, setCause]

theorem cmdResponses_prepareOne (d : Dir) (s : State) :
    cmdResponses (prepareOne d s) = cmdResponses s := by
  simp [prepareOne, setState, setCause]

theorem cmdResponses_drainOne (d : Dir) (s : State) :
    cmdResponses (drainOne d s) = cmdResponses s := by
  cases d
  · exact cmdResponses_stopStream .rx s
  · exact cmdResponses_drainTx s

theorem cmdResponses_configureOne (d : Dir) (c : Cfg) (s : State) :
    cmdResponses (configureOne d c s) = cmdResponses s := by
  rw [configureOne_eq, storeCfg]
  split <;> simp [setState, setCfg, cmdResponses_prepareOne]

theorem cmdResponses_teardownOne (d : Dir) (s : State) :
    cmdResponses (teardownOne d s) = cmdResponses s := by
  unfold teardownOne
  dsimp only
  split <;> simp [setState, setCfg, setCause]

/-! ### START -/

theorem cmdResponses_ask {d : Dir} {held : List Handle} {s t : State} {a : PoolAnswer}
    (h : ask d held s = (a, t)) : cmdResponses t = cmdResponses s :=
  cmdResponses_of_append (ask_log h) rfl

theorem cmdResponses_allocAll (T : List Dir) (got : List (Dir × Handle)) (s : State) :
    cmdResponses (allocAll T got s).2 = cmdResponses s := by
  induction T generalizing got s with
  | nil => rfl
  | cons d T ih =>
    unfold allocAll
    split
    · rename_i s1 ha
      exact (cmdResponses_foldl (fun u p => cmdResponses_emit _ u) got s1).trans
        (cmdResponses_ask ha)
    · rename_i k s1 ha
      exact (ih _ s1).trans (cmdResponses_ask ha)

/-! ### One answer, at the end -/

/-- The operation ended with a response on the CMD channel, and had given none there before. -/
def AnsweredLast (s t : State) : Prop :=
  ∃ (r : Response) (u : State), t = record (.resp r) u ∧ r.ch = .cmd ∧
    cmdResponses u = cmdResponses s

theorem answeredLast_respond {s u : State} (k : Code) (h : cmdResponses u = cmdResponses s) :
    AnsweredLast s (respond .cmd k u) := ⟨_, u, rfl, rfl, h⟩

/-- STOP, DRAIN, DROP and PREPARE are answered once if the change of a target answers nothing. -/
theorem answeredLast_trigger {x : Trigger} {T : List Dir} {f : State → Dir → State} {s t : State}
    (hf : ∀ u d, cmdResponses (f u d) = cmdResponses u)
    (h : (if allLegal x T s then .next (respond .cmd .ok (T.foldl f s))
      else .next (respond .cmd .invalidState s) : Host.Outcome State Fault Refusal) = .next t) :
    AnsweredLast s t := by
  rcases trigger_cases h with ⟨_, rfl⟩ | rfl
  · exact answeredLast_respond _ (cmdResponses_foldl hf T s)
  · exact answeredLast_respond _ rfl

theorem answeredLast_start {dir : DirSel} {s t : State} (h : execTriggerStart dir s = .next t) :
    AnsweredLast s t := by
  have halloc := cmdResponses_allocAll (targets dir s) [] s
  rcases start_cases h with ⟨got, s1, ha, _, rfl⟩ | ⟨s1, ha, rfl⟩ | rfl
  · rw [ha] at halloc
    refine answeredLast_respond _ ?_
    have hstate : ∀ (u : State) (d : Dir), cmdResponses (setState d .running u) = cmdResponses u :=
      fun u d => cmdResponses_upd d _ u
    exact (cmdResponses_foldl hstate _ _).trans <| (cmdResponses_periphOn _).trans <|
      (cmdResponses_foldl (fun u p => cmdResponses_arm p.1 p.2 u) got s1).trans halloc
  · rw [ha] at halloc
    exact answeredLast_respond _ halloc
  · exact answeredLast_respond _ rfl

/-- The `OP` of a command word alone routes it (R108 step 1). -/
theorem route_commandWord (op : BitVec 4) (dir : BitVec 2) (sub : BitVec 3) :
    route (commandWord op dir sub) = if op = 4#4 then .rd else if op = 5#4 then .wr else .cmd := by
  rw [route, fieldOp_commandWord]

/-- Every operation routed to the CMD channel is answered there, last (R110). -/
theorem exec_answeredLast {i : Instr} {s t : State} (ha : i.port = .a)
    (hr : route (encode i).cw = .cmd) (h : exec i s = .next t) : AnsweredLast s t := by
  cases i with
  | configure dir w0 w1 w2 w3 w4 =>
    rcases configure_cases h with ⟨_, rfl⟩ | ⟨k, rfl⟩
    · exact answeredLast_respond _
        (cmdResponses_foldl (fun u d => cmdResponses_configureOne d _ u) _ s)
    · exact answeredLast_respond _ rfl
  | triggerStart dir => exact answeredLast_start h
  | triggerStop dir => exact answeredLast_trigger (fun u d => cmdResponses_stopStream d u) h
  | triggerDrain dir => exact answeredLast_trigger (fun u d => cmdResponses_drainOne d u) h
  | triggerDrop dir => exact answeredLast_trigger (fun u d => cmdResponses_stopStream d u) h
  | triggerPrepare dir => exact answeredLast_trigger (fun u d => cmdResponses_prepareOne d u) h
  | status dir =>
    obtain ⟨r, hch, rfl⟩ := status_cases h
    exact ⟨r, s, rfl, hch, rfl⟩
  | read => cases (route_commandWord 4#4 0#2 0#3).symm.trans hr
  | write blk size => cases (route_commandWord 5#4 1#2 0#3).symm.trans hr
  | teardown =>
    obtain ⟨u, hu, -, rfl⟩ := teardown_eq h
    refine answeredLast_respond _ ((cmdResponses_of_log (s := u) rfl).trans ?_)
    rw [hu, cmdResponses_teardownOne, cmdResponses_teardownOne]
  | rxDone status => cases ha
  | txDone status => cases ha
  | periphFault flags => cases ha

/-- If the history only grew, what was entered before the last answer holds no CMD response. -/
theorem AnsweredLast.entries {s t : State} (h : AnsweredLast s t) {m : List Event}
    (hm : t.log = s.log ++ m) :
    ∃ l r, t.log = s.log ++ l ++ [.resp r] ∧ r.ch = .cmd ∧ cmdRespsOf l = [] := by
  obtain ⟨r, u, rfl, hch, hu⟩ := h
  rcases List.eq_nil_or_concat' m with rfl | ⟨l, e, rfl⟩
  · have hsame := cmdResponses_of_log (hm.trans (List.append_nil _))
    rw [cmdResponses_record_resp hch, hu] at hsame
    simp at hsame
  · rw [record_log, ← List.append_assoc] at hm
    obtain ⟨hlog, _⟩ := List.append_inj' hm rfl
    refine ⟨l, r, by rw [record_log, hlog], hch, ?_⟩
    rw [cmdResponses, hlog, cmdRespsOf_append] at hu
    exact List.append_right_eq_self.1 hu

/-- Settles O55: the operation only appended to the history, its last entry is its answer, and what
stands before that holds no CMD response. -/
theorem commandAnsweredOnce : Obligations.CommandAnsweredOnce := by
  unfold Obligations.CommandAnsweredOnce
  intro i s t ha hr h
  obtain ⟨m, hm⟩ := exec_log h
  obtain ⟨l, r, hlog, hch, hnone⟩ := (exec_answeredLast ha hr h).entries hm
  exact ⟨l, r, hlog, hch, (cmdRespsOf_eq_nil_iff l).1 hnone⟩

end Sys2Proof.Machine
end

section
/-! The Block Queue is a FIFO (40_queue_flow.md R140 to R146), and the flow counter and its view
move as Give, Take and SYNC say (R148 to R151). -/

namespace Sys2Proof.Machine

/-! ### Push and Pop at their boundaries -/

/-- What Push wrote is read at the old `head` (R141). -/
theorem memRead_pushed_head {d : Dir} {s : State} (h : StreamBounds d s) (b : Block) :
    memRead d (s.stream d).head (pushed d b s) = b := by
  simp only [memRead, pushed, upd_stream]
  exact Memory.read_write_same h.slots_wf _ b

theorem pop_eq_none_iff {d : Dir} {s : State} (h : StreamBounds d s) :
    pop d s = none ↔ occ d s = 0 := by
  rcases pop_cases h with ⟨hp, hz, _⟩ | ⟨b, hp, hr, _⟩
  · exact iff_of_true hp hz
  · exact iff_of_false (by simp [hp]) (by omega)

theorem pop_eq_some {d : Dir} {s t : State} {c : Block} (h : pop d s = some (c, t)) :
    (s.stream d).head ≠ (s.stream d).tail ∧ c = memRead d (s.stream d).tail s ∧
      t = popped d s := by
  by_cases he : (s.stream d).head = (s.stream d).tail
  · rw [pop_of_eq he] at h
    cases h
  · rw [pop_of_ne he] at h
    cases h
    exact ⟨he, rfl, rfl⟩

/-- Settles O18: a Push that answers leaves `pushed`, a Pop that answers leaves `popped`. -/
theorem pushPopBoundaries : Obligations.PushPopBoundaries := by
  unfold Obligations.PushPopBoundaries
  intro d s b h
  refine ⟨push_full h b, fun t ht => ?_, pop_eq_none_iff h, fun c t ht => ?_⟩
  · rcases push_cases h b with ⟨hn, _⟩ | ⟨hp, hroom⟩
    · rw [hn] at ht
      cases ht
    · rw [hp] at ht
      cases ht
      refine ⟨pushed_occ h b hroom, memRead_pushed_head h b, fun k hk => memRead_pushed hk b,
        ?_, ?_⟩ <;> simp only [pushed, upd_stream, nextIndex]
  · obtain ⟨hne, hc, rfl⟩ := pop_eq_some ht
    have hpos : 0 < occ d s := Nat.pos_of_ne_zero fun hz => hne ((occ_eq_zero_iff h).1 hz)
    exact ⟨hc, popped_occ h hpos, rfl⟩

/-! ### The queue as a FIFO -/

/-- What was queued and then accepted is what came out and then is still queued (R146). -/
theorem queueRun_fifo {d : Dir} (l : List QueueOp) {s : State} (h : StreamBounds d s) :
    queued d s ++ (queueRun d l s).1 =
      (queueRun d l s).2.1 ++ queued d (queueRun d l s).2.2 := by
  induction l generalizing s with
  | nil => simp [queueRun]
  | cons o l ih =>
    cases o with
    | push b =>
      rcases push_cases h b with ⟨hp, _⟩ | ⟨hp, hroom⟩
      · simpa only [queueRun, hp] using ih h
      · have hrun := ih (pushed_bounds h b)
        rw [pushed_queued h b hroom, List.append_assoc, List.singleton_append] at hrun
        simpa only [queueRun, hp] using hrun
    | pop =>
      rcases pop_cases h with ⟨hp, _, _⟩ | ⟨b, hp, _, hq⟩
      · simpa only [queueRun, hp] using ih h
      · simp only [queueRun, hp, hq, List.cons_append, ih (popped_bounds h)]

theorem queued_dropQueue {d : Dir} {s : State} (h : StreamBounds d s) :
    queued d (dropQueue d s) = [] := by
  rw [queued_eq_nil_iff, dropQueue_eq h]
  cases d <;> exact subMod_self (Nat.succ_pos _) _

theorem callsOf_freesOf (d : Dir) (l : List Block) :
    callsOf (freesOf d l) = l.map fun b => Call.poolFree d b.h := by
  induction l with
  | nil => rfl
  | cons b l ih => exact congrArg (Call.poolFree d b.h :: ·) ih

/-- DropQueue frees the queued Blocks, oldest first (R143). -/
theorem trace_dropQueue {d : Dir} {s : State} (h : StreamBounds d s) :
    trace (dropQueue d s) = trace s ++ (queued d s).map fun b => Call.poolFree d b.h := by
  have hlog : (dropQueue d s).log = s.log ++ freesOf d (queued d s) := by rw [dropQueue_eq h]
  rw [trace, hlog, callsOf_append, callsOf_freesOf, trace]

/-- Settles O17, by induction on the run: Push appends to the queue and Pop takes its first
Block. -/
theorem queueIsFifo : Obligations.QueueIsFifo := by
  unfold Obligations.QueueIsFifo
  exact fun d s h => ⟨fun l => queueRun_fifo l h, queued_dropQueue h, trace_dropQueue h⟩

/-! ### The view of the flow counter -/

theorem enabled_sync_iff (d : Dir) (j : Nat) (s : State) :
    enabled (.sync d j) s = true ↔ 1 ≤ j ∧ j ≤ viewLag d s := by
  rw [enabled, Bool.and_eq_true, decide_eq_true_iff, decide_eq_true_iff]

theorem viewLag_eq_zero_iff {d : Dir} {s : State} (h : StreamBounds d s) :
    viewLag d s = 0 ↔ (s.stream d).giveCnt = (s.stream d).giveView :=
  subMod_eq_zero_iff h.give_lt h.view_lt

/-- The view lags by what the queue can hold at most (R151). -/
theorem viewLag_le {d : Dir} {s : State} (h : StreamInv d s) : viewLag d s ≤ s.qcap d := by
  have hlag := viewLag_eq h.view_le
  have hle := h.flow_le
  omega

/-- Some choice of SYNC is enabled exactly when the view lags, and then the choice 1 is (R151). -/
theorem exists_enabled_sync_iff {d : Dir} {s : State} (h : StreamBounds d s) :
    (∃ k, enabled (.sync d k) s = true) ↔ (s.stream d).giveView ≠ (s.stream d).giveCnt := by
  rw [ne_comm, Ne, ← viewLag_eq_zero_iff h]
  constructor
  · rintro ⟨k, hk⟩
    obtain ⟨hlow, hhigh⟩ := (enabled_sync_iff d k s).1 hk
    omega
  · exact fun hlag => ⟨1, (enabled_sync_iff d 1 s).2 ⟨le_rfl, Nat.pos_of_ne_zero hlag⟩⟩

/-- Settles O20: the view moves on by the choice, which is at most its lag behind the counter. -/
theorem syncMovesView : Obligations.SyncMovesView := by
  unfold Obligations.SyncMovesView
  intro d j s h
  refine ⟨exists_enabled_sync_iff h.bounds, viewLag_le h, enabled_sync_iff d j s, fun he => ?_⟩
  obtain ⟨_, hj⟩ := (enabled_sync_iff d j s).1 he
  have hview := sync_flowView h.view_le hj
  have hlag := viewLag_eq h.view_le
  have hle := h.view_le
  refine ⟨congrArg Host.Outcome.next (sync_eq d j s), hview, ?_⟩
  rw [hview, sync_flowTrue]
  omega

/-- Settles O21: Give moves `give_cnt` alone, which the view does not read; Take moves `take_cnt`,
from which both differences are taken. -/
theorem giveAndTake : Obligations.GiveAndTake := by
  unfold Obligations.GiveAndTake
  intro d s h
  refine ⟨fun hroom => ⟨give_flowTrue hroom, give_flowView d s, rfl⟩,
    fun hview => ⟨take_flowTrue ?_, take_flowView hview, rfl⟩⟩
  exact hview.trans_le h.view_le

end Sys2Proof.Machine
end

section
/-! STOP, DRAIN, DROP and PREPARE (41_trigger.md R170 to R180): when a TRIGGER is refused, and what
each command leaves when it is granted. -/

namespace Sys2Proof.Machine

/-! ### Legality -/

theorem allLegal_eq_false_iff {x : Trigger} {T : List Dir} {s : State} :
    allLegal x T s = false ↔ ∃ d ∈ T, legal x (s.stream d).state = false := by
  rw [allLegal, List.all_eq_false]
  simp only [Bool.not_eq_true]

/-- A TRIGGER whose granted outcome ends with another answer is refused exactly if a target is in a
state where it is not legal (R170). -/
theorem refused_iff {x : Trigger} {T : List Dir} {s : State}
    {o : Host.Outcome State Fault Refusal}
    (ho : ∀ t, o = .next t → t.log.getLast? ≠ some (answered .cmd .invalidState)) :
    (if allLegal x T s then o else .next (respond .cmd .invalidState s)) =
        .next { s with log := s.log ++ [answered .cmd .invalidState] } ↔
      ∃ d ∈ T, legal x (s.stream d).state = false := by
  rw [← allLegal_eq_false_iff]
  cases allLegal x T s with
  | false => exact iff_of_true rfl rfl
  | true => exact iff_of_false (fun he => ho _ he (by simp)) (by decide)

/-- What `respond` puts last in the history. -/
theorem respond_getLast? (ch : Channel) (k : Code) (s : State) :
    (respond ch k s).log.getLast? = some (answered ch k) := List.getLast?_concat

theorem respond_getLast?_ne {k k' : Code} (h : k ≠ k') {s t : State}
    (ht : (.next (respond .cmd k s) : Host.Outcome State Fault Refusal) = .next t) :
    t.log.getLast? ≠ some (answered .cmd k') := by
  cases ht
  rw [respond_getLast?]
  simpa [answered] using h

/-- STOP, DRAIN, DROP and PREPARE are refused exactly if they are not legal for a target. -/
theorem trigger_refused_iff (x : Trigger) (T : List Dir) (f : State → Dir → State) (s : State) :
    (if allLegal x T s then .next (respond .cmd .ok (T.foldl f s))
      else .next (respond .cmd .invalidState s) : Host.Outcome State Fault Refusal) =
        .next { s with log := s.log ++ [answered .cmd .invalidState] } ↔
      ∃ d ∈ T, legal x (s.stream d).state = false :=
  refused_iff fun _ => respond_getLast?_ne (by decide)

theorem start_refused_iff (dir : DirSel) (s : State) :
    execTriggerStart dir s = .next { s with log := s.log ++ [answered .cmd .invalidState] } ↔
      ∃ d ∈ targets dir s, legal .start (s.stream d).state = false := by
  refine refused_iff fun t ht => ?_
  split at ht <;> exact respond_getLast?_ne (by decide) ht

/-! ### The four commands that change each target in turn -/

theorem exec_stop (dir : DirSel) (s : State) : exec (.triggerStop dir) s =
    if allLegal .stop (targets dir s) s then
      .next (respond .cmd .ok ((targets dir s).foldl (fun t d => stopStream d t) s))
    else .next (respond .cmd .invalidState s) := rfl

theorem exec_drain (dir : DirSel) (s : State) : exec (.triggerDrain dir) s =
    if allLegal .drain (targets dir s) s then
      .next (respond .cmd .ok ((targets dir s).foldl (fun t d => drainOne d t) s))
    else .next (respond .cmd .invalidState s) := rfl

theorem exec_drop (dir : DirSel) (s : State) : exec (.triggerDrop dir) s =
    if allLegal .drop (targets dir s) s then
      .next (respond .cmd .ok ((targets dir s).foldl (fun t d => stopStream d t) s))
    else .next (respond .cmd .invalidState s) := rfl

theorem exec_prepare (dir : DirSel) (s : State) : exec (.triggerPrepare dir) s =
    if allLegal .prepare (targets dir s) s then
      .next (respond .cmd .ok ((targets dir s).foldl (fun t d => prepareOne d t) s))
    else .next (respond .cmd .invalidState s) := rfl

/-- Settles O28: the check of the targets comes first, and a granted command ends with another
answer. -/
theorem triggerLegality : Obligations.TriggerLegality := by
  unfold Obligations.TriggerLegality
  intro dir s
  rw [exec_stop, exec_drain, exec_drop, exec_prepare]
  refine ⟨(start_refused_iff dir s).trans ?_, (trigger_refused_iff ..).trans ?_,
    (trigger_refused_iff ..).trans ?_, (trigger_refused_iff ..).trans ?_,
    (trigger_refused_iff ..).trans ?_⟩ <;>
    simp [legal]

theorem allLegal_of {x : Trigger} {T : List Dir} {s : State}
    (h : ∀ d ∈ T, legal x (s.stream d).state = true) : allLegal x T s = true :=
  List.all_eq_true.2 h

/-- STOP of RUNNING targets is granted (R175). -/
theorem exec_stop_running {dir : DirSel} {s : State} {T : List Dir} (hT : targets dir s = T)
    (h : ∀ d ∈ T, (s.stream d).state = .running) :
    exec (.triggerStop dir) s = .next (respond .cmd .ok (T.foldl (fun t d => stopStream d t) s)) := by
  rw [exec_stop, hT, if_pos (allLegal_of (x := .stop) fun d hd => decide_eq_true (h d hd))]

/-- DRAIN of RUNNING targets is granted (R177). -/
theorem exec_drain_running {dir : DirSel} {s : State} {T : List Dir} (hT : targets dir s = T)
    (h : ∀ d ∈ T, (s.stream d).state = .running) :
    exec (.triggerDrain dir) s = .next (respond .cmd .ok (T.foldl (fun t d => drainOne d t) s)) := by
  rw [exec_drain, hT, if_pos (allLegal_of (x := .drain) fun d hd => decide_eq_true (h d hd))]

/-- DROP of targets out of NOT_READY is granted (R178). -/
theorem exec_drop_on {dir : DirSel} {s : State} {T : List Dir} (hT : targets dir s = T)
    (h : ∀ d ∈ T, (s.stream d).state ≠ .notReady) :
    exec (.triggerDrop dir) s = .next (respond .cmd .ok (T.foldl (fun t d => stopStream d t) s)) := by
  rw [exec_drop, hT, if_pos (allLegal_of (x := .drop) fun d hd => decide_eq_true (h d hd))]

/-- PREPARE of targets in ERROR is granted (R179). -/
theorem exec_prepare_error {dir : DirSel} {s : State} {T : List Dir} (hT : targets dir s = T)
    (h : ∀ d ∈ T, (s.stream d).state = .error) :
    exec (.triggerPrepare dir) s =
      .next (respond .cmd .ok (T.foldl (fun t d => prepareOne d t) s)) := by
  rw [exec_prepare, hT, if_pos (allLegal_of (x := .prepare) fun d hd => decide_eq_true (h d hd))]

theorem forall_mem_both {P : Dir → Prop} (h : P .rx ∧ P .tx) : ∀ d ∈ [Dir.rx, Dir.tx], P d :=
  List.forall_mem_cons.2 ⟨h.1, List.forall_mem_singleton.2 h.2⟩

theorem foldl_one (f : State → Dir → State) (d : Dir) (s : State) :
    [d].foldl f s = f s d := rfl

theorem foldl_both (f : State → Dir → State) (s : State) :
    [Dir.rx, Dir.tx].foldl f s = f (f s .rx) .tx := rfl

theorem targets_pair {dir : DirSel} {s : State} (h : dir = .both ∨ s.fullDuplex = true) :
    targets dir s = [.rx, .tx] := if_pos h

/-! ### What a change of one stream leaves to the other -/

theorem stopStream_par (d : Dir) (s : State) : (stopStream d s).par = s.par :=
  (commandKeeps_stopStream d s).par

theorem prepareOne_par (d : Dir) (s : State) : (prepareOne d s).par = s.par :=
  (commandKeeps_prepareOne d s).par

/-- The answer that ends a wait depends on the side of the stream alone. -/
theorem waitEvents_of_side {d : Dir} {s t : State} (h : SideSame d s t) :
    waitEvents d t = waitEvents d s := by
  cases d
  · obtain ⟨-, hphase, -⟩ := h.rx rfl
    rw [waitEvents, hphase, waitEvents]
  · obtain ⟨-, -, -, -, hphase, -⟩ := h.tx rfl
    rw [waitEvents, hphase, waitEvents]

theorem disarmTrace_congr {d : Dir} {s t : State} (hp : t.par = s.par)
    (hs : t.stream d = s.stream d) : disarmTrace d t = disarmTrace d s := by
  rw [disarmTrace, disarmTrace, hp, hs]

/-! ### STOP and DROP -/

/-- What `StopStream(d)` leaves, for either stream (R173). -/
theorem stopStream_eq {d : Dir} {s : State} (h : StreamBounds d s) :
    stopStream d s =
      { (freedChannels [d] s).upd d (fun t => { t.emptied.disabled with state := .ready }) with
        periphEnabled := (s.stream d.other).armed && s.periphEnabled,
        lastBlockFlag := if d = .tx then false else s.lastBlockFlag,
        log := s.log ++ (disableTrace d s).map .call ++ droppedEvents [d] s } := by
  cases d
  · rw [stopStream_rx h]
    simp [freedChannels, droppedEvents, State.upd, Stream.emptied, Stream.disabled]
  · rw [stopStream_tx h]
    simp [freedChannels, droppedEvents, State.upd, Stream.emptied, Stream.disabled]

/-- Settles O31: each of the three commands is `StopStream(d)` of its only target. -/
theorem stopOneStream : Obligations.StopOneStream := by
  unfold Obligations.StopOneStream
  intro d s i hfd hb hi
  have hexec : exec i s = .next (respond .cmd .ok (stopStream d s)) := by
    rcases hi with ⟨rfl, hst⟩ | ⟨rfl, rfl, hst⟩ | ⟨rfl, hst⟩
    · rw [exec_stop_running (targets_sel hfd d) (List.forall_mem_singleton.2 hst), foldl_one]
    · rw [exec_drain_running (targets_sel hfd .rx) (List.forall_mem_singleton.2 hst), foldl_one,
        drainOne]
    · rw [exec_drop_on (targets_sel hfd d) (List.forall_mem_singleton.2 hst), foldl_one]
  rw [hexec, stopStream_eq hb]
  rfl

/-- What `StopStream(RX)` and then `StopStream(TX)` leave (R180): TX finds RX idle. -/
theorem stopStream_both {s : State} (hrx : StreamBounds .rx s) (htx : StreamBounds .tx s) :
    stopStream .tx (stopStream .rx s) =
      { freedChannels [.rx, .tx] s with
        rx := { s.rx.emptied.disabled with state := .ready },
        tx := { s.tx.emptied.disabled with state := .ready },
        periphEnabled := false, lastBlockFlag := false,
        log := s.log ++ (disableTrace .rx s).map .call ++ droppedEvents [.rx] s ++
          (disarmTrace .tx s ++ [Call.periphDisable]).map .call ++ droppedEvents [.tx] s } := by
  have hside : SideSame .tx s (stopStream .rx s) := sideSame_stopStream .rx s
  have hpar := stopStream_par .rx s
  have harm : (stopStream .rx s).rx.armed = false := by rw [stopStream_rx hrx]
  have hdisable :
      disableTrace .tx (stopStream .rx s) = disarmTrace .tx s ++ [Call.periphDisable] := by
    rw [disableTrace, disarmTrace_congr hpar hside.stream]
    simp [harm]
  have hdropped : droppedEvents [.tx] (stopStream .rx s) = droppedEvents [.tx] s := by
    simp only [droppedEvents, queued_congr hpar hside.stream, waitEvents_of_side hside,
      List.flatMap_singleton]
  rw [stopStream_eq (bounds_congr hpar hside.stream htx), hdisable, hdropped, stopStream_eq hrx]
  simp [freedChannels, State.upd, Stream.disabled]

/-- Settles O32: TX is stopped after RX, which left the TX side as it was. -/
theorem stopBothStreams : Obligations.StopBothStreams := by
  unfold Obligations.StopBothStreams
  intro dir s i hdir hrx htx hi
  have hexec : exec i s = .next (respond .cmd .ok (stopStream .tx (stopStream .rx s))) := by
    rcases hi with ⟨rfl, hst⟩ | ⟨rfl, hst⟩
    · rw [exec_stop_running (targets_pair hdir) (forall_mem_both hst), foldl_both]
    · rw [exec_drop_on (targets_pair hdir) (forall_mem_both hst), foldl_both]
  rw [hexec, stopStream_both hrx htx]
  rfl

/-! ### DROP, again and again -/

/-- The stream is READY and its queue is empty. -/
def Recovered (d : Dir) (s : State) : Prop := (s.stream d).state = .ready ∧ queued d s = []

theorem Recovered.congr {d : Dir} {s t : State} (hp : t.par = s.par)
    (hs : t.stream d = s.stream d) (h : Recovered d s) : Recovered d t := by
  obtain ⟨hst, hq⟩ := h
  exact ⟨by rw [hs, hst], by rw [queued_congr hp hs, hq]⟩

theorem recovered_stopStream {d : Dir} {s : State} (h : StreamBounds d s) :
    Recovered d (stopStream d s) := by
  rw [Recovered, queued_eq_nil_iff, stopStream_eq h]
  cases d <;> exact ⟨rfl, subMod_self (Nat.succ_pos _) _⟩

/-- Stopping streams, itself among them or not, leaves a recovered stream recovered. -/
theorem Recovered.foldl_stopStream {T : List Dir} {d : Dir} {s : State} (i : Inv s)
    (h : Recovered d s) : Recovered d (T.foldl (fun u e => stopStream e u) s) := by
  induction T generalizing s with
  | nil => exact h
  | cons e T ih =>
    refine ih (inv_stopStream e i) ?_
    by_cases he : d = e
    · subst he
      exact recovered_stopStream (i.bounds d)
    · exact h.congr (stopStream_par e s) (stopStream_stream_ne i he)

theorem recovered_foldl_stopStream {T : List Dir} {s : State} (i : Inv s) :
    ∀ d ∈ T, Recovered d (T.foldl (fun u e => stopStream e u) s) := by
  induction T generalizing s with
  | nil => nofun
  | cons e T ih =>
    have i1 := inv_stopStream e i
    have hfirst := (recovered_stopStream (i.bounds e)).foldl_stopStream (T := T) i1
    exact List.forall_mem_cons.2 ⟨hfirst, ih i1⟩

/-- One DROP of targets out of NOT_READY (R178). -/
theorem drop_recovers {dir : DirSel} {s : State} (i : Inv s)
    (h : ∀ d ∈ targets dir s, (s.stream d).state ≠ .notReady) :
    ∃ t, exec (.triggerDrop dir) s = .next t ∧ targets dir t = targets dir s ∧
      t.log.getLast? = some (answered .cmd .ok) ∧ ∀ d ∈ targets dir s, Recovered d t := by
  have hexec := exec_drop_on rfl h
  refine ⟨_, hexec, ?_, respond_getLast? _ _ _, fun d hd => ?_⟩
  · rw [targets, (command_keeps rfl (by simp) hexec).fullDuplex, targets]
  · exact (recovered_foldl_stopStream i d hd).congr rfl (record_stream _ _ d)

/-- Settles O33: DROP keeps the invariants and leaves its targets READY, so it is granted again. -/
theorem dropAlwaysRecovers : Obligations.DropAlwaysRecovers := by
  unfold Obligations.DropAlwaysRecovers
  intro dir s i h
  obtain ⟨t, ht, hT, hlast, hrec⟩ := drop_recovers i h
  have hon : ∀ d ∈ targets dir t, (t.stream d).state ≠ .notReady := fun d hd => by
    obtain ⟨hst, -⟩ := hrec d (hT ▸ hd)
    simp [hst]
  obtain ⟨u, hu, -, hlast', hrec'⟩ := drop_recovers (inv_exec i ht) hon
  rw [hT] at hrec'
  refine ⟨t, u, ht, hu, fun d hd => ?_⟩
  obtain ⟨hst, hq⟩ := hrec d hd
  obtain ⟨hst', hq'⟩ := hrec' d hd
  exact ⟨hst, hq, hst', hq', hlast, hlast'⟩

/-! ### DRAIN -/

/-- What the TX half of DRAIN leaves (R177). -/
theorem drainTx_eq (s : State) :
    drainTx s = { s with
      tx := { s.tx with state := .stopping },
      lastBlockFlag := decide (occ .tx s = 0),
      wrPhase := .idle,
      wrTimer := if s.wrPhase = .wait then 0 else s.wrTimer,
      wrH := if s.wrPhase = .wait then NULL else s.wrH,
      wrSz := if s.wrPhase = .wait then 0 else s.wrSz,
      log := s.log ++ if s.wrPhase = .wait then [answered .wr .invalidState] else [] } := by
  rw [drainTx, abortWrite_eq]
  rfl

/-- What `StopStream(RX)` and then the TX half of DRAIN leave (R177, R180). -/
theorem drain_both {s : State} (h : StreamBounds .rx s) :
    drainTx (stopStream .rx s) = { freedChannels [.rx] s with
      rx := { s.rx.emptied.disabled with state := .ready },
      tx := { s.tx with state := .stopping },
      lastBlockFlag := decide (occ .tx s = 0),
      periphEnabled := s.tx.armed && s.periphEnabled,
      wrPhase := .idle,
      wrTimer := if s.wrPhase = .wait then 0 else s.wrTimer,
      wrH := if s.wrPhase = .wait then NULL else s.wrH,
      wrSz := if s.wrPhase = .wait then 0 else s.wrSz,
      log := s.log ++ (disableTrace .rx s).map .call ++ droppedEvents [.rx] s ++
        if s.wrPhase = .wait then [answered .wr .invalidState] else [] } := by
  have hside : SideSame .tx s (stopStream .rx s) := sideSame_stopStream .rx s
  rw [drainTx_eq, occ_congr (stopStream_par .rx s) hside.stream, stopStream_eq h]
  simp [freedChannels, State.upd]

/-- Settles O34: the TX half keeps the queue, and RX, if it is a target, is stopped first. -/
theorem drainCommand : Obligations.DrainCommand := by
  unfold Obligations.DrainCommand
  refine fun s htx => ⟨fun hfd => ?_, fun dir hdir hb hrx => ?_⟩
  · have hexec := exec_drain_running (targets_sel hfd .tx) (List.forall_mem_singleton.2 htx)
    refine hexec.trans ?_
    rw [foldl_one, drainOne, drainTx_eq]
    rfl
  · rw [exec_drain_running (targets_pair hdir) (forall_mem_both ⟨hrx, htx⟩), foldl_both,
      drainOne, drainOne, drain_both hb]
    rfl

/-! ### PREPARE -/

/-- What PREPARE leaves of one stream (R179). -/
theorem prepareOne_eq {d : Dir} {s : State} (h : StreamBounds d s) :
    prepareOne d s =
      { (freedChannels [d] s).upd d (fun t => { t.emptied with state := .ready }) with
        overrun := if d = .rx then false else s.overrun,
        underrun := if d = .tx then false else s.underrun,
        log := s.log ++ droppedEvents [d] s } := by
  cases d
  · rw [prepareOne_rx h]
    simp [freedChannels, droppedEvents, State.upd, Stream.emptied]
  · rw [prepareOne_tx h]
    simp [freedChannels, droppedEvents, State.upd, Stream.emptied]

/-- What PREPARE of RX and then of TX leaves (R179, R180). -/
theorem prepareOne_both {s : State} (hrx : StreamBounds .rx s) (htx : StreamBounds .tx s) :
    prepareOne .tx (prepareOne .rx s) =
      { freedChannels [.rx, .tx] s with
        rx := { s.rx.emptied with state := .ready }, tx := { s.tx.emptied with state := .ready },
        overrun := false, underrun := false,
        log := s.log ++ droppedEvents [.rx, .tx] s } := by
  have hside : SideSame .tx s (prepareOne .rx s) := sideSame_prepareOne .rx s
  have hpar := prepareOne_par .rx s
  have hdropped : droppedEvents [.tx] (prepareOne .rx s) = droppedEvents [.tx] s := by
    simp only [droppedEvents, queued_congr hpar hside.stream, waitEvents_of_side hside,
      List.flatMap_singleton]
  rw [prepareOne_eq (bounds_congr hpar hside.stream htx), hdropped, prepareOne_eq hrx]
  simp [freedChannels, droppedEvents, State.upd]

/-- Settles O36: one target, or RX and then TX. -/
theorem prepareRecovers : Obligations.PrepareRecovers := by
  unfold Obligations.PrepareRecovers
  intro dir s hrx htx h
  rw [exec_prepare_error rfl h]
  rcases targets_cases dir s with ⟨d, hT⟩ | hT <;> rw [hT]
  · cases d
    · rw [foldl_one, prepareOne_eq hrx]
      rfl
    · rw [foldl_one, prepareOne_eq htx]
      rfl
  · rw [foldl_both, prepareOne_both hrx htx]
    rfl

end Sys2Proof.Machine
end

section
/-! TRIGGER.START (41_trigger.md R171, R174, R180): the pools' answers, and that every target starts or
none. -/

namespace Sys2Proof.Machine

/-! ### The pools' answers -/

theorem setPoolList_eq (d : Dir) (l : List PoolAnswer) (s : State) :
    setPoolList d l s = { s with
      rxPool := if d = .rx then l else s.rxPool,
      txPool := if d = .tx then l else s.txPool } := by
  cases d <;> rfl

/-- The state after `pool[d]` was asked and gave the listed answer `a`, with `l` left of the list. -/
def asked (d : Dir) (a : PoolAnswer) (l : List PoolAnswer) (s : State) : State :=
  { s with
    rxPool := if d = .rx then l else s.rxPool,
    txPool := if d = .tx then l else s.txPool,
    log := s.log ++ [.call (.poolAlloc d), .alloc d a] }

/-- A pool gives its listed answer if that is legal (R54). -/
theorem ask_listed {d : Dir} {held : List Handle} {s : State} {a : PoolAnswer}
    {l : List PoolAnswer} (h : poolList d s = a :: l) (ha : legalAnswer s held a = true) :
    ask d held s = (a, asked d a l s) := by
  rcases ask_cases d held s with ⟨b, m, hl, he⟩ | ⟨hl, -⟩
  · obtain ⟨rfl, rfl⟩ := List.cons.inj (h.symm.trans hl)
    rw [he, lawful_of_legal ha, setPoolList_eq, asked]
  · simp [h] at hl

/-- Whether an answer is legal does not depend on what asking a pool changes. -/
theorem PoolChange.legalAnswer {s t : State} (h : PoolChange t s) (held : List Handle)
    (a : PoolAnswer) : legalAnswer t held a = legalAnswer s held a := by
  have hlatched : latched t = latched s := by rw [h.eq]; rfl
  cases a with
  | busy => rfl
  | block k => simp only [Machine.legalAnswer, h.par, h.owned, hlatched]

theorem allocAll_block {d : Dir} {T : List Dir} {got : List (Dir × Handle)} {h : Handle}
    {s s1 : State} (ha : ask d (got.map Prod.snd) s = (.block h, s1)) :
    allocAll (d :: T) got s = allocAll T (got ++ [(d, h)]) s1 := by
  simp only [allocAll, ha]

/-- On BUSY what was obtained is given back (R174). -/
theorem allocAll_busy {d : Dir} {T : List Dir} {got : List (Dir × Handle)} {s s1 : State}
    (ha : ask d (got.map Prod.snd) s = (.busy, s1)) :
    allocAll (d :: T) got s =
      (none, { s1 with log := s1.log ++ got.map fun p => .call (.poolFree p.1 p.2) }) := by
  simp only [allocAll, ha, foldl_free]

/-! ### The granted command -/

/-- START of READY targets for which the pools gave Blocks is granted (R174). -/
theorem exec_start_granted {dir : DirSel} {s s1 : State} {T : List Dir}
    {got : List (Dir × Handle)} (hT : targets dir s = T)
    (h : ∀ d ∈ T, (s.stream d).state = .ready) (ha : allocAll T [] s = (some got, s1)) :
    exec (.triggerStart dir) s =
      .next (respond .cmd .ok (T.foldl (fun t d => setState d .running t)
        (periphOn (got.foldl (fun t p => arm p.1 p.2 t) s1)))) := by
  have hl := allLegal_of (x := .start) fun d hd => decide_eq_true (h d hd)
  change execTriggerStart dir s = _
  simp only [execTriggerStart, hT, hl, ha, if_true]

/-- START of READY targets, one of whose pools is BUSY, answers RESOURCE_EXHAUSTED (R174). -/
theorem exec_start_busy {dir : DirSel} {s s1 : State} {T : List Dir} (hT : targets dir s = T)
    (h : ∀ d ∈ T, (s.stream d).state = .ready) (ha : allocAll T [] s = (none, s1)) :
    exec (.triggerStart dir) s = .next (respond .cmd .resourceExhausted s1) := by
  have hl := allLegal_of (x := .start) fun d hd => decide_eq_true (h d hd)
  change execTriggerStart dir s = _
  simp only [execTriggerStart, hT, hl, ha, if_true]

/-- `periph.enable()` is called if the peripheral was off (R174). -/
theorem periphOn_log (s : State) :
    periphOn s = { s with
      periphEnabled := true,
      log := s.log ++ if s.periphEnabled = false then [.call .periphEnable] else [] } := by
  rw [periphOn_eq]
  unfold periphOn
  split <;> simp [emit, record]

/-- Settles O29: the only target gets the Block its pool lists, and is armed with it. -/
theorem startOneStream : Obligations.StartOneStream := by
  unfold Obligations.StartOneStream
  intro d s h l hfd hst hpool hlegal
  have halloc : allocAll [d] [] s = (some [(d, h)], asked d (.block h) l s) :=
    allocAll_block (got := []) (ask_listed hpool hlegal)
  rw [exec_start_granted (targets_sel hfd d) (List.forall_mem_singleton.2 hst) halloc]
  simp only [List.foldl_cons, List.foldl_nil, periphOn_log, arm_eq]
  cases d <;> simp [asked, setState, State.upd, State.stream, respond, record, answered]

/-! ### Every target or none -/

/-- A stream that START armed with Block `h` (R171, R174). -/
def startedWith (h : Handle) (a : Stream) : Stream :=
  { a with state := .running, active := { h := h, sz := a.cfg.blockSize }, armed := true }

theorem begun_stream (d : Dir) (h : Handle) (s : State) :
    (begun d h s).stream d = startedWith h (s.stream d) := by
  rw [begun, arm_eq]
  cases d <;> rfl

theorem Unread.stream {t s : State} (h : Unread t s) (d : Dir) : t.stream d = s.stream d := by
  rw [h.eq]
  cases d <;> rfl

/-- Every stream of `T` was started with some Block, no other stream changed, and the peripheral is
on. -/
structure Started (T : List Dir) (s t : State) : Prop where
  target : ∀ d ∈ T, ∃ h, t.stream d = startedWith h (s.stream d)
  other : ∀ d, d ∉ T → t.stream d = s.stream d
  periph : t.periphEnabled = true

/-- The targets of a granted START are started (R174). -/
theorem started_of_obtained {T : List Dir} {got : List (Dir × Handle)} {s s1 : State}
    (hT : (∃ d, T = [d]) ∨ T = [.rx, .tx]) (o : Obtained T [] got s s1) :
    Started T s (T.foldl (fun u d => setState d .running u)
      (periphOn (got.foldl (fun u p => arm p.1 p.2 u) s1))) := by
  have hs1 := o.change.stream
  rcases started_cases hT o with ⟨d, h, rfl, -, hu⟩ | ⟨h, k, rfl, -, hu⟩
  · refine ⟨List.forall_mem_singleton.2 ⟨h, ?_⟩, fun e he => ?_, by rw [hu.eq]; rfl⟩
    · rw [hu.stream, begun_stream, hs1]
    · rw [hu.stream, begun_stream_ne (by simpa using he), hs1]
  · refine ⟨forall_mem_both ⟨⟨h, ?_⟩, ⟨k, ?_⟩⟩, fun e he => ?_, by rw [hu.eq]; rfl⟩
    · rw [hu.stream, begun_stream_ne (by decide), begun_stream, hs1]
    · rw [hu.stream, begun_stream, begun_stream_ne (by decide), hs1]
    · cases e <;> simp at he

/-- All that START can do to the streams (R174, R180). -/
theorem start_streams {dir : DirSel} {s t : State} (h : execTriggerStart dir s = .next t) :
    ((∀ d ∈ targets dir s, (s.stream d).state = .ready) ∧ Started (targets dir s) s t ∧
      t.log.getLast? = some (answered .cmd .ok)) ∨
    ((∀ d, t.stream d = s.stream d) ∧ t.periphEnabled = s.periphEnabled ∧
      t.log.getLast? = some (answered .cmd .resourceExhausted)) ∨
    t = respond .cmd .invalidState s := by
  rcases start_cases h with ⟨got, s1, ha, hready, rfl⟩ | ⟨s1, ha, rfl⟩ | rfl
  · have hstarted := started_of_obtained (targets_cases dir s) (allocAll_start ha)
    refine .inl ⟨hready, ⟨fun d hd => ?_, fun d hd => ?_, hstarted.periph⟩,
      respond_getLast? _ _ _⟩
    · rw [respond, record_stream]
      exact hstarted.target d hd
    · rw [respond, record_stream]
      exact hstarted.other d hd
  · have hc := allocAll_none ha
    refine .inr (.inl ⟨fun d => ?_, ?_, respond_getLast? _ _ _⟩)
    · rw [respond, record_stream, hc.stream]
    · rw [respond, record_periphEnabled, hc.eq]
  · exact .inr (.inr rfl)

/-- Two targets, and both pools give a Block (R174). -/
theorem start_two_blocks {dir : DirSel} {s : State} {h k : Handle} {l m : List PoolAnswer}
    (hT : targets dir s = [.rx, .tx]) (hready : ∀ d ∈ targets dir s, (s.stream d).state = .ready)
    (hrx : s.rxPool = .block h :: l) (htx : s.txPool = .block k :: m)
    (hh : legalAnswer s [] (.block h) = true) (hk : legalAnswer s [h] (.block k) = true) :
    exec (.triggerStart dir) s = .next { s with
      rx := startedWith h s.rx, tx := startedWith k s.tx, rxPool := l, txPool := m,
      overrun := false, underrun := false, lastBlockFlag := false, periphEnabled := true,
      log := s.log ++ [.call (.poolAlloc .rx), .alloc .rx (.block h), .call (.poolAlloc .tx),
          .alloc .tx (.block k)] ++
        (armTrace .rx h s.rx.cfg ++ armTrace .tx k s.tx.cfg).map .call ++
        (if s.periphEnabled = false then [.call .periphEnable] else []) ++
        [answered .cmd .ok] } := by
  have hfirst := ask_listed (d := .rx) hrx hh
  have hk' := ((ask_poolChange hfirst).legalAnswer [h] (.block k)).trans hk
  have halloc : allocAll [.rx, .tx] [] s = (some [(.rx, h), (.tx, k)],
      asked .tx (.block k) m (asked .rx (.block h) l s)) :=
    (allocAll_block (got := []) hfirst).trans
      (allocAll_block (got := [(.rx, h)]) (ask_listed (d := .tx) htx hk'))
  rw [hT] at hready
  rw [exec_start_granted hT hready halloc]
  simp only [List.foldl_cons, List.foldl_nil, periphOn_log, arm_eq]
  simp [asked, setState, State.upd, State.stream, respond, record, answered, startedWith]

/-- Two targets, and the second pool is BUSY: the first Block goes back (95_test_vectors.md E8). -/
theorem start_second_busy {dir : DirSel} {s : State} {h : Handle} {l m : List PoolAnswer}
    (hT : targets dir s = [.rx, .tx]) (hready : ∀ d ∈ targets dir s, (s.stream d).state = .ready)
    (hrx : s.rxPool = .block h :: l) (htx : s.txPool = .busy :: m)
    (hh : legalAnswer s [] (.block h) = true) :
    exec (.triggerStart dir) s = .next { s with
      rxPool := l, txPool := m,
      log := s.log ++ [.call (.poolAlloc .rx), .alloc .rx (.block h), .call (.poolAlloc .tx),
        .alloc .tx .busy, .call (.poolFree .rx h), answered .cmd .resourceExhausted] } := by
  have hfirst := ask_listed (d := .rx) hrx hh
  have halloc := (allocAll_block (T := [.tx]) (got := []) hfirst).trans
    (allocAll_busy (got := [(.rx, h)]) (ask_listed (d := .tx) (a := .busy) htx rfl))
  rw [hT] at hready
  rw [exec_start_busy hT hready halloc]
  simp [asked, respond, record, answered]

/-- The first pool asked is BUSY: no other is asked (R174). -/
theorem start_first_busy {dir : DirSel} {s : State} {d : Dir} {T : List Dir}
    {l : List PoolAnswer} (hT : targets dir s = d :: T)
    (hready : ∀ e ∈ targets dir s, (s.stream e).state = .ready) (hl : poolList d s = .busy :: l) :
    exec (.triggerStart dir) s = .next { s with
      rxPool := if d = .rx then l else s.rxPool,
      txPool := if d = .tx then l else s.txPool,
      log := s.log ++ [.call (.poolAlloc d), .alloc d .busy,
        answered .cmd .resourceExhausted] } := by
  rw [hT] at hready
  have halloc := allocAll_busy (T := T) (got := []) (ask_listed (a := .busy) hl rfl)
  rw [exec_start_busy hT hready halloc]
  simp [asked, respond, record, answered]

/-- Settles O30: no stream is armed before every pool has answered with a Block. -/
theorem startAllOrNothing : Obligations.StartAllOrNothing := by
  unfold Obligations.StartAllOrNothing
  intro dir s hready
  refine ⟨?_, fun h k l m hT hrx htx hh hk => start_two_blocks hT hready hrx htx hh hk,
    fun h l m hT hrx htx hh => start_second_busy hT hready hrx htx hh,
    fun d T l hT hl => start_first_busy hT hready hl⟩
  obtain ⟨t, ht⟩ := start_completes dir s
  refine ⟨t, ht, ?_⟩
  rcases start_streams ht with ⟨-, hs, hlast⟩ | hnone | rfl
  · exact .inl ⟨hs.target, hs.other, hs.periph, hlast⟩
  · exact .inr hnone
  · obtain ⟨d, hd, hill⟩ := (start_refused_iff dir s).1 ht
    simp [legal, hready d hd] at hill

end Sys2Proof.Machine
end

section
/-! The transition table (41_trigger.md R181): along which edges each operation moves the streams'
states, and that the internal steps move none. -/

namespace Sys2Proof.Machine

/-! ### The internal steps -/

/-- `s` with what the internal steps write taken from `t`. -/
abbrev internalPart (t s : State) : State :=
  { s with
    rx := { s.rx with
      slots := t.rx.slots, head := t.rx.head, tail := t.rx.tail, takeCnt := t.rx.takeCnt,
      giveView := t.rx.giveView },
    tx := { s.tx with
      slots := t.tx.slots, head := t.tx.head, tail := t.tx.tail, takeCnt := t.tx.takeCnt,
      giveView := t.tx.giveView },
    rdPhase := t.rdPhase, rdTimer := t.rdTimer, wrPhase := t.wrPhase, wrTimer := t.wrTimer,
    wrH := t.wrH, wrSz := t.wrSz, app := t.app, log := t.log }

/-- Nothing changed but the queues, `take_cnt` and the views, the data channels, the application's
Blocks and the history, where no call was entered. -/
structure InternalChange (t s : State) : Prop where
  eq : t = internalPart t s
  quiet : trace t = trace s

theorem InternalChange.trans {u t s : State} (h : InternalChange u t) (g : InternalChange t s) :
    InternalChange u s := by
  refine ⟨?_, h.quiet.trans g.quiet⟩
  conv_lhs => rw [h.eq, g.eq]

theorem internal_resp (r : Response) (s : State) : InternalChange (record (.resp r) s) s :=
  ⟨rfl, by simp [trace, callsOf, Event.call?]⟩

theorem internal_take (d : Dir) (s : State) : InternalChange (take d s) s := by
  cases d <;> exact ⟨rfl, rfl⟩

theorem internal_popped (d : Dir) (s : State) : InternalChange (popped d s) s := by
  cases d <;> exact ⟨rfl, rfl⟩

theorem internal_pushed (d : Dir) (b : Block) (s : State) : InternalChange (pushed d b s) s := by
  cases d <;> exact ⟨rfl, rfl⟩

theorem internal_rdIdle (s : State) : InternalChange (rdIdle s) s := ⟨rfl, rfl⟩

theorem internal_wrIdle (s : State) : InternalChange (wrIdle s) s := ⟨rfl, rfl⟩

theorem internal_appTakes (h : Handle) (s : State) : InternalChange (appTakes h s) s := ⟨rfl, rfl⟩

theorem internal_appGives (h : Handle) (s : State) : InternalChange (appGives h s) s := ⟨rfl, rfl⟩

theorem internal_rdGrant (s : State) : InternalChange (rdGrant s) s := by
  by_cases he : s.rx.head = s.rx.tail
  · rw [rdGrant_of_eq he]
    exact (internal_resp _ _).trans <| (internal_rdIdle _).trans (internal_take .rx s)
  · rw [rdGrant_of_ne he]
    exact (internal_resp _ _).trans <| (internal_appTakes _ _).trans <|
      (internal_rdIdle _).trans <| (internal_popped .rx _).trans (internal_take .rx s)

theorem internal_rdTimeout (s : State) : InternalChange (rdTimeout s) s :=
  have hidle : InternalChange { s with rdPhase := .idle } s := ⟨rfl, rfl⟩
  (internal_resp _ _).trans hidle

theorem internal_wrGrant (s : State) : InternalChange (wrGrant s) s := by
  rcases wrGrant_cases s with ⟨_, he⟩ | ⟨_, he⟩ <;> rw [he]
  · exact (internal_resp _ _).trans <| (internal_wrIdle _).trans <|
      (internal_appGives _ _).trans <| (internal_pushed .tx _ _).trans (internal_take .tx s)
  · exact (internal_resp _ _).trans <| (internal_wrIdle _).trans (internal_take .tx s)

theorem internal_wrTimeout (s : State) : InternalChange (wrTimeout s) s :=
  have hidle : InternalChange { s with wrPhase := .idle, wrH := NULL, wrSz := 0 } s := ⟨rfl, rfl⟩
  (internal_resp _ _).trans hidle

theorem internal_tick (s : State) : InternalChange (tick s) s := ⟨rfl, rfl⟩

theorem internal_sync (d : Dir) (j : Nat) (s : State) : InternalChange (sync d j s) s := by
  cases d <;> exact ⟨rfl, rfl⟩

/-- Settles O52: none of the six steps writes what is named here. -/
theorem internalStepsFrame : Obligations.InternalStepsFrame := by
  unfold Obligations.InternalStepsFrame
  intro m s t d hm h
  have hc : InternalChange t s := by
    rcases hm with rfl | rfl | rfl | rfl | rfl | ⟨e, j, rfl⟩ <;> cases h
    · exact internal_rdGrant s
    · exact internal_rdTimeout s
    · exact internal_wrGrant s
    · exact internal_wrTimeout s
    · exact internal_tick s
    · exact internal_sync e j s
  refine ⟨?_, ?_, ?_, ?_, ?_, ?_, ?_, ?_, ?_, ?_, ?_, hc.quiet⟩ <;> rw [hc.eq]
  all_goals cases d <;> rfl

/-! ### The commands -/

theorem eq_other {d e : Dir} (h : e ≠ d) : e = d.other := by
  cases d <;> cases e <;> simp_all

theorem SideSame.stream_ne {d e : Dir} {s t : State} (h : SideSame d.other s t) (he : e ≠ d) :
    t.stream e = s.stream e := by
  rw [eq_other he]
  exact h.stream

/-- Changes of one stream each, made in turn: every stream of `T` ends in the state its own change
leaves, and no other state moves. -/
theorem foldl_state {f : State → Dir → State} {q : Dir → StreamState}
    (hq : ∀ u d, ((f u d).stream d).state = q d) (hside : ∀ u d, SideSame d.other u (f u d))
    (T : List Dir) (s : State) (e : Dir) :
    ((T.foldl f s).stream e).state = if e ∈ T then q e else (s.stream e).state := by
  induction T generalizing s with
  | nil => rfl
  | cons d T ih =>
    rw [List.foldl_cons, ih]
    by_cases he : e = d
    · subst he
      simp [hq]
    · simp [he, (hside s d).stream_ne he]

theorem setState_state (d : Dir) (q : StreamState) (s : State) :
    ((setState d q s).stream d).state = q := by
  rw [setState, upd_stream]

theorem stopStream_state (d : Dir) (s : State) : ((stopStream d s).stream d).state = .ready := by
  rw [stopStream, setState_state]

theorem prepareOne_state (d : Dir) (s : State) : ((prepareOne d s).stream d).state = .ready := by
  rw [prepareOne, setState_state]

/-- Where DRAIN leaves a target (R177). -/
def drained : Dir → StreamState
  | .rx => .ready
  | .tx => .stopping

theorem drainOne_state (d : Dir) (s : State) : ((drainOne d s).stream d).state = drained d := by
  cases d
  · exact stopStream_state .rx s
  · rw [drainOne, drainTx_eq]
    rfl

/-- Where CONFIGURE leaves a stream (44_configure_status.md R271). -/
def configured (c : Cfg) : StreamState := if c.freq = 0#32 then .notReady else .ready

theorem configureOne_state (d : Dir) (c : Cfg) (s : State) :
    ((configureOne d c s).stream d).state = configured c := by
  unfold configureOne storeCfg configured
  split <;> exact setState_state d _ _

theorem teardownOne_state (d : Dir) (s : State) :
    ((teardownOne d s).stream d).state = .notReady := by
  unfold teardownOne
  rw [setState_state]

theorem sideSame_teardownOne (d : Dir) (s : State) : SideSame d.other s (teardownOne d s) := by
  by_cases h : (s.stream d).state = .notReady
  · rw [teardownOne_of_eq h]
    exact (sideSame_upd d _ s).trans (sideSame_upd d _ _)
  · rw [teardownOne_of_ne h]
    exact (sideSame_stopStream d s).trans ((sideSame_upd d _ _).trans (sideSame_upd d _ _))

/-- TEARDOWN leaves both streams NOT_READY (R274). -/
theorem teardown_state {s t : State} (h : exec .teardown s = .next t) (d : Dir) :
    (t.stream d).state = .notReady := by
  obtain ⟨u, hu, -, rfl⟩ := teardown_eq h
  have hsame : (respond .cmd .ok
      { u with overrun := false, underrun := false, fillerSize := 0 }).stream d = u.stream d := by
    cases d <;> rfl
  rw [hsame, hu]
  cases d
  · rw [(sideSame_teardownOne .tx _).stream_ne (by decide), teardownOne_state]
  · rw [teardownOne_state]

/-- STOP, DRAIN, DROP and PREPARE move a stream only from a state where the command is legal, and
only to the one where the change of a target leaves it. -/
theorem trigger_state {x : Trigger} {T : List Dir} {f : State → Dir → State}
    {q : Dir → StreamState} {s t : State} (hq : ∀ u d, ((f u d).stream d).state = q d)
    (hside : ∀ u d, SideSame d.other u (f u d))
    (h : (if allLegal x T s then .next (respond .cmd .ok (T.foldl f s))
      else .next (respond .cmd .invalidState s) : Host.Outcome State Fault Refusal) = .next t)
    (d : Dir) :
    (t.stream d).state = (s.stream d).state ∨
    (legal x (s.stream d).state = true ∧ (t.stream d).state = q d) := by
  rcases trigger_cases h with ⟨hl, rfl⟩ | rfl
  · rw [respond, record_stream, foldl_state hq hside]
    by_cases hd : d ∈ T
    · exact .inr ⟨hl d hd, if_pos hd⟩
    · exact .inl (if_neg hd)
  · exact .inl (by rw [respond, record_stream])

theorem configure_edge {dir : DirSel} {w0 w1 w2 w3 w4 : Word} {s t : State}
    (h : execConfigure dir w0 w1 w2 w3 w4 s = .next t) (d : Dir) :
    edge s.fullDuplex (.configure dir w0 w1 w2 w3 w4) d (s.stream d).state (t.stream d).state := by
  rcases configure_cases h with ⟨hl, rfl⟩ | ⟨k, rfl⟩
  · rw [respond, record_stream, foldl_state (fun u d => configureOne_state d _ u)
      (fun u d => sideSame_configureOne d _ u)]
    by_cases hd : d ∈ addressed dir
    · have hfrom : (s.stream d).state = .notReady ∨ (s.stream d).state = .ready :=
        of_decide_eq_true (hl d hd)
      rw [if_pos hd, configured]
      refine .inr ⟨hfrom, ?_⟩
      split <;> simp
    · exact .inl (if_neg hd)
  · exact .inl (by rw [respond, record_stream])

theorem start_edge {dir : DirSel} {s t : State} (h : execTriggerStart dir s = .next t) (d : Dir) :
    edge s.fullDuplex (.triggerStart dir) d (s.stream d).state (t.stream d).state := by
  rcases start_streams h with ⟨hready, hs, -⟩ | ⟨hsame, -⟩ | rfl
  · by_cases hd : d ∈ targets dir s
    · obtain ⟨k, hk⟩ := hs.target d hd
      exact .inr ⟨hready d hd, by rw [hk]; rfl⟩
    · exact .inl (by rw [hs.other d hd])
  · exact .inl (by rw [hsame])
  · exact .inl (by rw [respond, record_stream])

/-! ### The events -/

/-- The states of both streams, and whether the Device is full duplex, are the same. -/
structure StatesSame (s t : State) : Prop where
  state : ∀ d, (t.stream d).state = (s.stream d).state
  duplex : t.fullDuplex = s.fullDuplex

theorem StatesSame.of_eq {s t : State} (hrx : t.rx.state = s.rx.state)
    (htx : t.tx.state = s.tx.state) (hfd : t.fullDuplex = s.fullDuplex) : StatesSame s t :=
  ⟨fun d => by cases d <;> assumption, hfd⟩

theorem StatesSame.refl (s : State) : StatesSame s s := .of_eq rfl rfl rfl

theorem StatesSame.trans {s t u : State} (h : StatesSame s t) (g : StatesSame t u) :
    StatesSame s u :=
  ⟨fun d => (g.state d).trans (h.state d), g.duplex.trans h.duplex⟩

/-- The state a fault of the other stream can leave: the old one or, on a full-duplex Device whose
stream can fault, ERROR (60_exceptions.md R296). -/
def CoupledState (fd : Bool) (q q' : StreamState) : Prop :=
  q' = q ∨ (fd = true ∧ faultable q = true ∧ q' = .error)

theorem faultOne_state (d : Dir) (c : FaultCause) (s : State) :
    ((faultOne d c s).stream d).state = .error := by
  rw [faultOne_eq]
  cases d <;> rfl

theorem couple_state (d e : Dir) (s : State) :
    CoupledState s.fullDuplex (s.stream e).state ((couple d s).stream e).state := by
  unfold couple
  split
  · rename_i hc
    obtain ⟨hfd, hq⟩ := hc
    by_cases he : e = d
    · subst he
      exact .inr ⟨hfd, hq, faultOne_state e _ s⟩
    · exact .inl (by rw [faultOne_stream_ne he])
  · exact .inl rfl

theorem couple_stream_ne {d e : Dir} (he : e ≠ d) (s : State) :
    (couple d s).stream e = s.stream e := by
  unfold couple
  split
  · exact faultOne_stream_ne he _ s
  · rfl

/-- A fault puts its stream in ERROR, and the other one as `CoupledState` says (R296). -/
theorem fault_state (d : Dir) (c : FaultCause) (s : State) :
    ((fault d c s).stream d).state = .error ∧
    CoupledState s.fullDuplex (s.stream d.other).state ((fault d c s).stream d.other).state := by
  have hfd := (transfer_faultOne d c s).fullDuplex
  have hother := faultOne_stream_ne (other_ne d) c s
  refine ⟨?_, ?_⟩
  · rw [fault, couple_stream_ne (Ne.symm (other_ne d)), faultOne_state]
  · have hc := couple_state d.other d.other (faultOne d c s)
    rwa [hfd, hother] at hc

/-- How a fault of stream `e` can move the state of stream `d` (R295, R296). -/
def FaultEdge (fd : Bool) (e d : Dir) (q q' : StreamState) : Prop :=
  q' = q ∨ (d = e ∧ (q = .running ∨ q = .stopping) ∧ q' = .error) ∨
  (d = e.other ∧ fd = true ∧ faultable q = true ∧ q' = .error)

theorem fault_edge {e : Dir} {s u : State} (h : StatesSame s u)
    (hon : (s.stream e).state = .running ∨ (s.stream e).state = .stopping) (c : FaultCause)
    (d : Dir) :
    FaultEdge s.fullDuplex e d (s.stream d).state ((fault e c u).stream d).state := by
  obtain ⟨hself, hother⟩ := fault_state e c u
  by_cases hd : d = e
  · subst hd
    exact .inr (.inl ⟨rfl, hon, hself⟩)
  · obtain rfl := eq_other hd
    rw [h.state, h.duplex] at hother
    exact hother.imp id fun hc => .inr ⟨rfl, hc⟩

theorem StatesSame.faultEdge {s u : State} (h : StatesSame s u) (e d : Dir) :
    FaultEdge s.fullDuplex e d (s.stream d).state (u.stream d).state := .inl (h.state d)

theorem statesSame_ask {d : Dir} {held : List Handle} {s t : State} {a : PoolAnswer}
    (h : ask d held s = (a, t)) : StatesSame s t :=
  ⟨fun e => by rw [(ask_poolChange h).stream], (transfer_ask h).fullDuplex⟩

/-- The delivery of a completed RX Block moves a state by the fault OVERRUN alone (R211, R212). -/
theorem rxDeliver_edge {b : Block} {s u : State} (h : StatesSame s u)
    (hon : s.rx.state = .running ∨ s.rx.state = .stopping) (d : Dir) :
    FaultEdge s.fullDuplex .rx d (s.stream d).state ((rxDeliver b id u).stream d).state := by
  rcases rxDeliver_cases b id u with ⟨_, he⟩ | ⟨_, _, he⟩ | ⟨_, _, he⟩ <;> rw [he]
  · have hpush : StatesSame u (give .rx (pushed .rx b u)) := .of_eq rfl rfl rfl
    exact (h.trans hpush).faultEdge .rx d
  · have hdrop : StatesSame u { emit (.poolFree .rx b.h) u with overrun := true } :=
      .of_eq rfl rfl rfl
    exact (h.trans hdrop).faultEdge .rx d
  · have hfree : StatesSame u (emit (.poolFree .rx b.h) u) := .of_eq rfl rfl rfl
    exact fault_edge (e := .rx) (h.trans hfree) hon .overrun d

theorem rxDone_edge {status : BitVec 8} {s t : State} (i : Inv s)
    (h : execRxDone status s = .next t) (d : Dir) :
    edge s.fullDuplex (.rxDone status) d (s.stream d).state (t.stream d).state := by
  change FaultEdge s.fullDuplex .rx d (s.stream d).state (t.stream d).state
  rcases rxDone_cases h with rfl | ⟨harm, rfl⟩ | ⟨_, _, hst, _⟩ | ⟨_, harm, _, rfl⟩
  · exact .inl rfl
  · exact fault_edge (e := .rx) (.refl s) (i.rx.stream.armed_iff.1 harm) _ d
  · exact absurd hst i.rx.not_stopping
  · have hon := i.rx.stream.armed_iff.1 harm
    rcases rxDoneRunning_cases s with ⟨s1, ha, he⟩ | ⟨nb, s1, ha, he⟩ <;> rw [he]
    · exact fault_edge (e := .rx) (statesSame_ask ha) hon _ d
    · have hload : StatesSame s1 (reloaded nb s1) := .of_eq rfl rfl rfl
      exact rxDeliver_edge ((statesSame_ask ha).trans hload) hon d

theorem statesSame_sent (s : State) : StatesSame s (sent s) := by
  rw [sent_eq]
  exact .of_eq rfl rfl rfl

theorem statesSame_txSend (b : Block) (s : State) : StatesSame s (txSend b s) :=
  .of_eq rfl rfl rfl

theorem statesSame_markLast (s : State) : StatesSame s (markLast s) := by
  unfold markLast
  split
  · exact .of_eq rfl rfl rfl
  · exact .refl s

theorem statesSame_txNext (b : Block) (s : State) : StatesSame s (txNext b s) :=
  have hgive : StatesSame s (give .tx { s with underrun := false }) := .of_eq rfl rfl rfl
  hgive.trans ((statesSame_markLast _).trans (statesSame_txSend b _))

/-- How TX_DONE can move the state of stream `d`: by a fault of TX, or by the end of a drain. -/
def TxDoneEdge (fd : Bool) (d : Dir) (q q' : StreamState) : Prop :=
  FaultEdge fd .tx d q q' ∨ (d = .tx ∧ q = .stopping ∧ q' = .ready)

/-- The end of a drain moves TX to READY (42_completion.md R218). -/
theorem drainEnd_edge {s u : State} (h : StatesSame s u) (hst : s.tx.state = .stopping) (d : Dir) :
    TxDoneEdge s.fullDuplex d (s.stream d).state ((drainEnd u).stream d).state := by
  rw [drainEnd, disable_eq]
  cases d
  · exact .inl (.inl (h.state .rx))
  · exact .inr ⟨rfl, hst, rfl⟩

theorem txEmpty_edge {s u : State} (h : StatesSame s u)
    (hon : s.tx.state = .running ∨ s.tx.state = .stopping) (d : Dir) :
    TxDoneEdge s.fullDuplex d (s.stream d).state ((txEmpty u).stream d).state := by
  unfold txEmpty
  split
  · rename_i hst
    exact drainEnd_edge h ((h.state .tx).symm.trans hst) d
  · split
    · have hflag : StatesSame u { u with underrun := true } := .of_eq rfl rfl rfl
      exact .inl (((h.trans hflag).trans (statesSame_txSend _ _)).faultEdge .tx d)
    · exact .inl (fault_edge (e := .tx) h hon _ d)

theorem txDone_edge {status : BitVec 8} {s t : State} (i : Inv s)
    (h : execTxDone status s = .next t) (d : Dir) :
    edge s.fullDuplex (.txDone status) d (s.stream d).state (t.stream d).state := by
  suffices hedge : TxDoneEdge s.fullDuplex d (s.stream d).state (t.stream d).state by
    rcases hedge with (hsame | hself | hother) | hend
    · exact .inl hsame
    · exact .inr (.inl hself)
    · exact .inr (.inr (.inr hother))
    · exact .inr (.inr (.inl hend))
  rcases txDone_cases h with rfl | ⟨harm, rfl⟩ | ⟨_, harm, rfl⟩
  · exact .inl (.inl rfl)
  · exact .inl (fault_edge (e := .tx) (.refl s) (i.tx.stream.armed_iff.1 harm) _ d)
  · have hsent := statesSame_sent s
    rcases txDoneOk_cases s with ⟨hlast, he⟩ | ⟨_, _, he⟩ | ⟨_, _, he⟩ <;> rw [he]
    · exact drainEnd_edge hsent (i.tx.last hlast) d
    · exact txEmpty_edge hsent (i.tx.stream.armed_iff.1 harm) d
    · have hpop : StatesSame (sent s) (popped .tx (sent s)) := .of_eq rfl rfl rfl
      exact .inl (((hsent.trans hpop).trans (statesSame_txNext _ _)).faultEdge .tx d)

/-- How PERIPH_FAULT can move a state (42_completion.md R220). -/
def PeriphEdge (fd : Bool) (q q' : StreamState) : Prop :=
  q' = q ∨ ((q = .running ∨ q = .stopping) ∧ q' = .error) ∨
  (fd = true ∧ q = .ready ∧ q' = .error)

/-- Once in ERROR a stream stays there. -/
theorem PeriphEdge.trans {fd : Bool} {q q' q'' : StreamState} (h : PeriphEdge fd q q')
    (g : PeriphEdge fd q' q'') : PeriphEdge fd q q'' := by
  rcases g with rfl | ⟨hq, rfl⟩ | ⟨hfd, hq, rfl⟩
  · exact h
  · rcases h with rfl | ⟨hq', -⟩ | ⟨hfd, hq', -⟩
    · exact .inr (.inl ⟨hq, rfl⟩)
    · exact .inr (.inl ⟨hq', rfl⟩)
    · exact .inr (.inr ⟨hfd, hq', rfl⟩)
  · rcases h with rfl | ⟨hq', -⟩ | ⟨-, hq', -⟩
    · exact .inr (.inr ⟨hfd, hq, rfl⟩)
    · exact .inr (.inl ⟨hq', rfl⟩)
    · exact .inr (.inr ⟨hfd, hq', rfl⟩)

theorem CoupledState.periphEdge {fd : Bool} {q q' : StreamState} (h : CoupledState fd q q') :
    PeriphEdge fd q q' := by
  rcases h with rfl | ⟨hfd, hq, rfl⟩
  · exact .inl rfl
  · rcases of_decide_eq_true hq with hq | hq
    · exact .inr (.inr ⟨hfd, hq, rfl⟩)
    · exact .inr (.inl ⟨hq, rfl⟩)

theorem periphOne_stream_ne {d e : Dir} (he : e ≠ d) (v : Bool) (s : State) :
    (periphOne d v s).stream e = s.stream e := by
  unfold periphOne
  split
  · exact faultOne_stream_ne he _ s
  · rfl

/-- Both streams moved along a `PeriphEdge`, if at all. -/
structure PeriphMoves (s t : State) : Prop where
  edge : ∀ d, PeriphEdge s.fullDuplex (s.stream d).state (t.stream d).state
  duplex : t.fullDuplex = s.fullDuplex

theorem PeriphMoves.trans {s t u : State} (h : PeriphMoves s t) (g : PeriphMoves t u) :
    PeriphMoves s u := by
  refine ⟨fun d => (h.edge d).trans ?_, g.duplex.trans h.duplex⟩
  rw [← h.duplex]
  exact g.edge d

theorem periphMoves_couple (d : Dir) (s : State) : PeriphMoves s (couple d s) :=
  ⟨fun e => (couple_state d e s).periphEdge, (transfer_couple d s).fullDuplex⟩

theorem periphMoves_periphOne {d : Dir} {v : Bool} {s : State}
    (hv : v = true → (s.stream d).state = .running ∨ (s.stream d).state = .stopping) :
    PeriphMoves s (periphOne d v s) := by
  refine ⟨fun e => ?_, (transfer_periphOne d v s).fullDuplex⟩
  by_cases he : e = d
  · subst he
    cases v with
    | false => exact .inl rfl
    | true => exact .inr (.inl ⟨hv rfl, faultOne_state e _ s⟩)
  · exact .inl (by rw [periphOne_stream_ne he])

theorem periphFault_edge {flags : BitVec 3} {s t : State} (i : Inv s)
    (h : execPeriphFault flags s = .next t) (d : Dir) :
    edge s.fullDuplex (.periphFault flags) d (s.stream d).state (t.stream d).state := by
  change PeriphEdge s.fullDuplex (s.stream d).state (t.stream d).state
  have hemit : PeriphMoves s (emit .clearErrors s) :=
    ⟨fun d => .inl (by rw [emit, record_stream]), rfl⟩
  rcases periphFault_cases h with rfl | rfl | rfl
  · exact .inl rfl
  · exact hemit.edge d
  · have hrx := periphMoves_periphOne (d := .rx) (s := emit .clearErrors s)
      i.rx.stream.armed_iff.1
    have htx := periphMoves_periphOne (d := .tx) (v := s.tx.armed)
      (s := periphOne .rx s.rx.armed (emit .clearErrors s)) (by
        rw [periphOne_stream_ne (by decide), emit, record_stream]
        exact i.tx.stream.armed_iff.1)
    exact (hemit.trans <| hrx.trans <| htx.trans <|
      (periphMoves_couple .rx _).trans (periphMoves_couple .tx _)).edge d

/-! ### The table -/

/-- Settles O51, one operation after another. -/
theorem transitionTable : Obligations.TransitionTable := by
  unfold Obligations.TransitionTable
  intro i s t d hs h
  cases i with
  | configure dir w0 w1 w2 w3 w4 => exact configure_edge h d
  | triggerStart dir => exact start_edge h d
  | triggerStop dir =>
    exact (trigger_state (fun u d => stopStream_state d u) (fun u d => sideSame_stopStream d u)
      h d).imp id fun ⟨hl, hq⟩ => ⟨of_decide_eq_true hl, hq⟩
  | triggerDrain dir =>
    refine (trigger_state (fun u d => drainOne_state d u) (fun u d => sideSame_drainOne d u)
      h d).imp id fun ⟨hl, hq⟩ => ⟨of_decide_eq_true hl, ?_⟩
    cases d
    · exact .inl ⟨rfl, hq⟩
    · exact .inr ⟨rfl, hq⟩
  | triggerDrop dir =>
    exact (trigger_state (fun u d => stopStream_state d u) (fun u d => sideSame_stopStream d u)
      h d).imp id fun ⟨hl, hq⟩ => ⟨of_decide_eq_true hl, hq⟩
  | triggerPrepare dir =>
    exact (trigger_state (fun u d => prepareOne_state d u) (fun u d => sideSame_prepareOne d u)
      h d).imp id fun ⟨hl, hq⟩ => ⟨of_decide_eq_true hl, hq⟩
  | status dir =>
    obtain ⟨r, _, rfl⟩ := status_cases h
    exact congrArg Stream.state (record_stream _ s d)
  | read => rcases read_cases h with rfl | ⟨_, rfl⟩ | rfl <;> cases d <;> rfl
  | write blk size =>
    rcases write_cases h with ⟨k, _, rfl⟩ | ⟨_, _, rfl⟩ | rfl <;> cases d <;> rfl
  | teardown => exact teardown_state h d
  | rxDone status => exact rxDone_edge hs h d
  | txDone status => exact txDone_edge hs h d
  | periphFault flags => exact periphFault_edge hs h d

end Sys2Proof.Machine
end

section
/-! Faults and how they spread on a full-duplex Device (60_exceptions.md R295, R296), and the events
that bring them: completions with an error status, PERIPH_FAULT (42_completion.md R211, R215, R220,
R221). -/

namespace Sys2Proof.Machine

/-! ### Which completion is taken -/

/-- Settles O43: the armed bit is looked at first (R221). -/
theorem unarmedCompletionDiscarded : Obligations.UnarmedCompletionDiscarded := by
  unfold Obligations.UnarmedCompletionDiscarded
  intro d status s h
  cases d
  · exact if_pos h
  · exact if_pos h

theorem exec_done_error {d : Dir} {status : BitVec 8} {s : State}
    (h : (s.stream d).armed = true) (h0 : status ≠ 0#8) :
    exec (doneOf d status) s = .next (fault d .dmaError s) := by
  have ha : ¬ (s.stream d).armed = false := by simp [h]
  cases d <;> exact (if_neg ha).trans (if_pos h0)

theorem exec_rxDone_ok {s : State} (h : s.rx.armed = true) (hst : s.rx.state ≠ .stopping) :
    exec (.rxDone 0#8) s = .next (rxDoneRunning s) := by
  change execRxDone 0#8 s = _
  simp [execRxDone, h, hst]

theorem exec_txDone_ok {s : State} (h : s.tx.armed = true) :
    exec (.txDone 0#8) s = .next (txDoneOk s) := by
  change execTxDone 0#8 s = _
  simp [execTxDone, h]

/-! ### The calls of Disable -/

/-- A stream that owns a Block frees it when it is disabled (41_trigger.md R172). -/
theorem disarmTrace_owning {d : Dir} {s : State} (h0 : (s.stream d).active.h ≠ NULL)
    (h1 : (s.stream d).active.h ≠ s.par.filler) :
    disarmTrace d s = [.dmareqDisable d, .errirqDisable d, .dmaStop d,
      .poolFree d (s.stream d).active.h] := by
  rw [disarmTrace, if_neg (not_or.2 ⟨h0, h1⟩)]
  rfl

theorem disarmTrace_null {d : Dir} {s : State} (h : (s.stream d).active.h = NULL) :
    disarmTrace d s = [.dmareqDisable d, .errirqDisable d, .dmaStop d] := by
  rw [disarmTrace, if_pos (.inl h)]
  rfl

theorem disableTrace_alone {d : Dir} {s : State} (h : (s.stream d.other).armed = false) :
    disableTrace d s = disarmTrace d s ++ [.periphDisable] := by
  rw [disableTrace, if_pos h]

theorem disableTrace_events (d : Dir) (s : State) :
    (disableTrace d s).map Event.call = (disarmTrace d s).map Event.call ++
      if (s.stream d.other).armed = false then [.call .periphDisable] else [] := by
  rw [disableTrace, List.map_append]
  split <;> rfl

theorem disableTrace_congr {d : Dir} {s t : State} (hp : t.par = s.par)
    (hs : ∀ e, t.stream e = s.stream e) : disableTrace d t = disableTrace d s := by
  rw [disableTrace, disarmTrace_congr hp (hs d), hs, disableTrace]

/-! ### A fault of one stream, and of both -/

/-- What `FaultOne(d, cause)` leaves (R295). -/
theorem faultOne_faulted (d : Dir) (c : FaultCause) (s : State) :
    faultOne d c s = { s.upd d (Stream.faulted c) with
      periphEnabled := (s.stream d.other).armed && s.periphEnabled,
      lastBlockFlag := if d = .tx then false else s.lastBlockFlag,
      log := s.log ++ (disableTrace d s).map .call } := by
  rw [faultOne_eq]
  rfl

/-- With nothing else armed `FaultOne(d, cause)` turns the peripheral off (R172, R295). -/
theorem faultOne_alone {d : Dir} {s : State} (h : (s.stream d.other).armed = false)
    (c : FaultCause) :
    faultOne d c s = { s.upd d (Stream.faulted c) with
      periphEnabled := false,
      lastBlockFlag := if d = .tx then false else s.lastBlockFlag,
      log := s.log ++ (disarmTrace d s ++ [Call.periphDisable]).map .call } := by
  rw [faultOne_faulted, h, disableTrace_alone h]
  rfl

theorem couple_faultable {d : Dir} {s : State} (hfd : s.fullDuplex = true)
    (h : faultable (s.stream d).state = true) : couple d s = faultOne d .peer s := if_pos ⟨hfd, h⟩

theorem couple_not_faultable {d : Dir} {s : State}
    (h : s.fullDuplex = false ∨ faultable (s.stream d).state = false) : couple d s = s := by
  refine if_neg fun ⟨hfd, hf⟩ => ?_
  rcases h with h | h
  · simp [h] at hfd
  · simp [h] at hf

theorem faultOne_stream_other (d : Dir) (c : FaultCause) (s : State) :
    (faultOne d c s).stream d.other = s.stream d.other :=
  faultOne_stream_ne (other_ne d) c s

theorem faultOne_armed (d : Dir) (c : FaultCause) (s : State) :
    ((faultOne d c s).stream d).armed = false := by
  rw [faultOne_faulted]
  cases d <;> rfl

/-- A fault stays with its stream on a half-duplex Device, and when the other stream cannot fault
(R296). -/
theorem fault_alone {d : Dir} {s : State}
    (h : s.fullDuplex = false ∨ faultable (s.stream d.other).state = false) (c : FaultCause) :
    fault d c s = faultOne d c s := by
  refine couple_not_faultable (h.imp (fun hfd => ?_) fun hf => ?_)
  · rw [(transfer_faultOne d c s).fullDuplex, hfd]
  · rw [faultOne_stream_other, hf]

/-- A fault that takes the other stream along (R296). -/
theorem fault_coupled {d : Dir} {s : State} (hfd : s.fullDuplex = true)
    (hf : faultable (s.stream d.other).state = true) (c : FaultCause) :
    fault d c s = { (s.upd d (Stream.faulted c)).upd d.other (Stream.faulted .peer) with
      periphEnabled := false, lastBlockFlag := false,
      log := s.log ++ (disableTrace d s).map .call ++
        (disarmTrace d.other s ++ [Call.periphDisable]).map .call } := by
  have hpar := (transfer_faultOne d c s).par
  have hother := faultOne_stream_other d c s
  have hoff : ((faultOne d c s).stream d.other.other).armed = false := by
    rw [other_other, faultOne_armed]
  rw [fault, couple_faultable ((transfer_faultOne d c s).fullDuplex.trans hfd) (by rwa [hother]),
    faultOne_alone hoff, disarmTrace_congr hpar hother, faultOne_faulted]
  cases d <;> rfl

/-- Settles O49: the two ways of `Fault(d, DMA_ERROR)`. -/
theorem dmaErrorFaults : Obligations.DmaErrorFaults := by
  unfold Obligations.DmaErrorFaults
  intro d status s ha h0
  rw [exec_done_error ha h0]
  refine ⟨fun h => ?_, fun hfd hf => ?_⟩
  · rw [fault_alone h, faultOne_faulted]
  · rw [fault_coupled hfd hf]

/-! ### PERIPH_FAULT -/

/-- A stream in ERROR is not faulted again (R296). -/
theorem couple_of_error {d : Dir} {s : State} (h : (s.stream d).state = .error) :
    couple d s = s :=
  couple_not_faultable (.inr (by rw [h]; rfl))

theorem exec_periphFault_armed {flags : BitVec 3} {s : State} (h0 : flags ≠ 0#3)
    (h : s.rx.armed = true ∨ s.tx.armed = true) :
    exec (.periphFault flags) s = .next (couple .tx (couple .rx
      (periphOne .tx s.tx.armed (periphOne .rx s.rx.armed (emit .clearErrors s))))) := by
  have ha : ¬ (s.rx.armed = false ∧ s.tx.armed = false) := by
    rcases h with h | h <;> simp [h]
  exact (if_neg h0).trans (if_neg ha)

/-- With one stream armed PERIPH_FAULT is `Fault(d, PERIPH)` of that stream (R220, R296). -/
theorem exec_periphFault_one {flags : BitVec 3} {d : Dir} {s : State} (h0 : flags ≠ 0#3)
    (ha : (s.stream d).armed = true) (hoff : (s.stream d.other).armed = false) :
    exec (.periphFault flags) s = .next (fault d .periph (emit .clearErrors s)) := by
  cases d
  · have hrx : s.rx.armed = true := ha
    have htx : s.tx.armed = false := hoff
    rw [exec_periphFault_armed h0 (.inl ha), hrx, htx]
    have herr := couple_of_error (faultOne_state .rx .periph (emit .clearErrors s))
    exact congrArg (fun u => Host.Outcome.next (couple .tx u)) herr
  · have htx : s.tx.armed = true := ha
    have hrx : s.rx.armed = false := hoff
    rw [exec_periphFault_armed h0 (.inr ha), hrx, htx]
    refine congrArg Host.Outcome.next (couple_of_error ?_)
    exact (congrArg Stream.state (couple_stream_ne (by decide) _)).trans
      (faultOne_state .tx .periph (emit .clearErrors s))

/-- PERIPH_FAULT with one stream armed, which takes no other along (R220). -/
theorem periphFault_alone {flags : BitVec 3} {d : Dir} {s : State} (h0 : flags ≠ 0#3)
    (ha : (s.stream d).armed = true) (hoff : (s.stream d.other).armed = false)
    (h : s.fullDuplex = false ∨ faultable (s.stream d.other).state = false) :
    exec (.periphFault flags) s = .next { s.upd d (Stream.faulted .periph) with
      periphEnabled := false,
      lastBlockFlag := if d = .tx then false else s.lastBlockFlag,
      log := s.log ++ [.call .clearErrors] ++
        (disarmTrace d s ++ [Call.periphDisable]).map .call } := by
  have hs : ∀ e, (emit .clearErrors s).stream e = s.stream e := record_stream _ s
  rw [exec_periphFault_one h0 ha hoff, fault_alone (by rwa [hs]), faultOne_alone (by rwa [hs]),
    disarmTrace_congr (s := s) rfl (hs d)]
  cases d <;> rfl

/-- PERIPH_FAULT with one stream armed, which takes the other along (R220, R296). -/
theorem periphFault_coupled {flags : BitVec 3} {d : Dir} {s : State} (h0 : flags ≠ 0#3)
    (ha : (s.stream d).armed = true) (hoff : (s.stream d.other).armed = false)
    (hfd : s.fullDuplex = true) (hf : faultable (s.stream d.other).state = true) :
    exec (.periphFault flags) s = .next
      { (s.upd d (Stream.faulted .periph)).upd d.other (Stream.faulted .peer) with
        periphEnabled := false, lastBlockFlag := false,
        log := s.log ++ [.call .clearErrors] ++
          (disarmTrace d s ++ [Call.periphDisable]).map .call ++
          (disarmTrace d.other s ++ [Call.periphDisable]).map .call } := by
  have hs : ∀ e, (emit .clearErrors s).stream e = s.stream e := record_stream _ s
  rw [exec_periphFault_one h0 ha hoff, fault_coupled (s := emit .clearErrors s) hfd (by rwa [hs]),
    disableTrace_alone (by rwa [hs]), disarmTrace_congr (s := s) rfl (hs d),
    disarmTrace_congr (s := s) rfl (hs d.other)]
  cases d <;> rfl

/-- PERIPH_FAULT with both streams armed: RX first, and the peripheral off with TX (R220). -/
theorem periphFault_both {flags : BitVec 3} {s : State} (h0 : flags ≠ 0#3)
    (hrx : s.rx.armed = true) (htx : s.tx.armed = true) :
    exec (.periphFault flags) s = .next { s with
      rx := s.rx.faulted .periph, tx := s.tx.faulted .periph, periphEnabled := false,
      lastBlockFlag := false,
      log := s.log ++ [.call .clearErrors] ++ (disableTrace .rx s).map .call ++
        (disarmTrace .tx s ++ [Call.periphDisable]).map .call } := by
  have hs : ∀ e, (emit .clearErrors s).stream e = s.stream e := record_stream _ s
  have htrace : disarmTrace .tx (faultOne .rx .periph (emit .clearErrors s)) = disarmTrace .tx s :=
    disarmTrace_congr ((transfer_faultOne ..).par) (faultOne_stream_other .rx ..)
  have hrxerr : ((faultOne .tx .periph (faultOne .rx .periph (emit .clearErrors s))).stream
      .rx).state = .error := by
    rw [faultOne_stream_ne (by decide), faultOne_state]
  rw [exec_periphFault_armed h0 (.inl hrx), hrx, htx]
  simp only [periphOne, if_true]
  rw [couple_of_error hrxerr, couple_of_error (faultOne_state .tx _ _),
    faultOne_alone (d := .tx) (faultOne_armed .rx _ _), htrace, faultOne_faulted,
    disableTrace_congr (s := s) rfl hs]
  rfl

/-- Settles O50: by which streams are armed, and whether an unarmed one is taken along. -/
theorem peripheralFault : Obligations.PeripheralFault := by
  unfold Obligations.PeripheralFault
  refine fun flags s => ⟨fun h0 => if_pos h0, fun h0 hr ht => ?_, fun h0 ha hfd => ?_,
    fun h0 ha hfd next hnext => ?_⟩
  · exact (if_neg h0).trans (if_pos ⟨hr, ht⟩)
  · cases hr : s.rx.armed <;> cases ht : s.tx.armed
    · simp [hr, ht] at ha
    · rw [periphFault_alone (d := .tx) h0 ht hr (.inl hfd)]
      simp [State.upd]
    · rw [periphFault_alone (d := .rx) h0 hr ht (.inl hfd), disableTrace_alone (d := .rx) ht]
      simp [State.upd]
    · rw [periphFault_both h0 hr ht]
      simp
  · subst hnext
    cases hr : s.rx.armed <;> cases ht : s.tx.armed
    · simp [hr, ht] at ha
    · cases hf : faultable s.rx.state
      · rw [periphFault_alone (d := .tx) h0 ht hr (.inr hf)]
        simp [State.upd, hr, ht, hf]
      · rw [periphFault_coupled (d := .tx) h0 ht hr hfd hf]
        simp [State.upd, hr, ht, hf]
    · cases hf : faultable s.tx.state
      · rw [periphFault_alone (d := .rx) h0 hr ht (.inr hf), disableTrace_alone (d := .rx) ht]
        simp [State.upd, hr, ht, hf]
      · rw [periphFault_coupled (d := .rx) h0 hr ht hfd hf, disableTrace_alone (d := .rx) ht]
        simp [State.upd, hr, ht, hf]
    · rw [periphFault_both h0 hr ht]
      simp [hr, ht]

end Sys2Proof.Machine
end

section
/-! Successful RX completions (42_completion.md R211, R212): the delivery of the completed Block, its
loss when the queue is full, and the fault when the pool gives no fresh Block. -/

namespace Sys2Proof.Machine

/-! ### The delivery -/

theorem rxDeliver_room {b : Block} {s : State} (hb : StreamBounds .rx s)
    (h : occ .rx s < s.qcap .rx) (k : State → State) :
    rxDeliver b k s = k (give .rx (pushed .rx b s)) := by
  rcases push_cases hb b with ⟨-, hfull⟩ | ⟨hp, -⟩
  · omega
  · simp only [rxDeliver, hp]

theorem rxDeliver_full {b : Block} {s : State} (hb : StreamBounds .rx s)
    (h : occ .rx s = s.qcap .rx) (k : State → State) :
    rxDeliver b k s = if dropOnOverrun s then k { emit (.poolFree .rx b.h) s with overrun := true }
      else fault .rx .overrun (emit (.poolFree .rx b.h) s) := by
  simp only [rxDeliver, (push_full hb b).2 h]

/-! ### The pool's answer -/

/-- RX after the fresh Block `nb` was obtained from the pool's list and handed to the DMA channel
(R211 (a), (b)). -/
def refilled (nb : Handle) (l : List PoolAnswer) (s : State) : State :=
  reloaded nb (asked .rx (.block nb) l s)

theorem refilled_eq (nb : Handle) (l : List PoolAnswer) (s : State) :
    refilled nb l s = { s with
      rx := { s.rx with active := { h := nb, sz := s.rx.cfg.blockSize } }, rxPool := l,
      log := s.log ++ [.call (.poolAlloc .rx), .alloc .rx (.block nb),
        .call (.dmaReload .rx .periphDr (.block nb) s.rx.cfg.blockSize)] } := by
  simp [refilled, reloaded, asked, setActive, emit, record, State.upd]

theorem refilled_queueSame (nb : Handle) (l : List PoolAnswer) (s : State) :
    QueueSame ((refilled nb l s).stream .rx) (s.stream .rx) := ⟨rfl, rfl, rfl, rfl, rfl, rfl⟩

theorem refilled_bounds {s : State} (hb : StreamBounds .rx s) (nb : Handle)
    (l : List PoolAnswer) : StreamBounds .rx (refilled nb l s) :=
  same_bounds (s := s) rfl (refilled_queueSame nb l s) hb

theorem refilled_occ (nb : Handle) (l : List PoolAnswer) (s : State) :
    occ .rx (refilled nb l s) = occ .rx s := same_occ (s := s) rfl (refilled_queueSame nb l s)

/-- With a legal Block listed, the completed one is delivered (R211). -/
theorem exec_rxDone_block {s : State} {nb : Handle} {l : List PoolAnswer}
    (h : s.rx.armed = true) (hst : s.rx.state ≠ .stopping) (hl : s.rxPool = .block nb :: l)
    (ha : legalAnswer s [] (.block nb) = true) :
    exec (.rxDone 0#8) s = .next (rxDeliver (completed s) id (refilled nb l s)) := by
  rw [exec_rxDone_ok h hst]
  simp only [rxDoneRunning, ask_listed (d := .rx) hl ha]
  rfl

/-- With BUSY listed, the stream faults (R211 (a)). -/
theorem exec_rxDone_busy {s : State} {l : List PoolAnswer} (h : s.rx.armed = true)
    (hst : s.rx.state ≠ .stopping) (hl : s.rxPool = .busy :: l) :
    exec (.rxDone 0#8) s = .next (fault .rx .allocFail (asked .rx .busy l s)) := by
  rw [exec_rxDone_ok h hst]
  simp only [rxDoneRunning, ask_listed (d := .rx) (a := .busy) hl rfl]

/-- Settles O44: the delivery finds room. -/
theorem receiveQueues : Obligations.ReceiveQueues := by
  unfold Obligations.ReceiveQueues
  intro s nb l h hst hb hroom hl ha
  have hroom' : occ .rx (refilled nb l s) < (refilled nb l s).qcap .rx := by
    rw [refilled_occ]
    exact hroom
  rw [exec_rxDone_block h hst hl ha, rxDeliver_room (refilled_bounds hb nb l) hroom', refilled_eq]
  rfl

/-! ### Losses -/

/-- RX that was refilled but whose completed Block found a full queue and was freed (R211 (d)). -/
def overran (nb : Handle) (l : List PoolAnswer) (s : State) : State :=
  emit (.poolFree .rx s.rx.active.h) (refilled nb l s)

theorem overran_eq (nb : Handle) (l : List PoolAnswer) (s : State) :
    overran nb l s = { s with
      rx := { s.rx with active := { h := nb, sz := s.rx.cfg.blockSize } }, rxPool := l,
      log := s.log ++ [.call (.poolAlloc .rx), .alloc .rx (.block nb),
        .call (.dmaReload .rx .periphDr (.block nb) s.rx.cfg.blockSize),
        .call (.poolFree .rx s.rx.active.h)] } := by
  rw [overran, refilled_eq]
  simp [emit, record]

theorem exec_rxDone_full {s : State} {nb : Handle} {l : List PoolAnswer}
    (h : s.rx.armed = true) (hst : s.rx.state ≠ .stopping) (hb : StreamBounds .rx s)
    (hfull : occ .rx s = s.par.qcapRx) (hl : s.rxPool = .block nb :: l)
    (ha : legalAnswer s [] (.block nb) = true) :
    exec (.rxDone 0#8) s = .next (if s.rx.cfg.options.getLsbD 2 = true
      then { overran nb l s with overrun := true } else fault .rx .overrun (overran nb l s)) := by
  rw [exec_rxDone_block h hst hl ha,
    rxDeliver_full (refilled_bounds hb nb l) ((refilled_occ nb l s).trans hfull)]
  rfl

/-- The fresh Block is freed when the stream faults with OVERRUN (R212, 41_trigger.md R172). -/
theorem disarmTrace_overran {s : State} {nb : Handle} (ha : legalAnswer s [] (.block nb) = true)
    (l : List PoolAnswer) :
    disarmTrace .rx (overran nb l s) =
      [.dmareqDisable .rx, .errirqDisable .rx, .dmaStop .rx, .poolFree .rx nb] := by
  obtain ⟨⟨hnull, hfill, -⟩, -⟩ := legalAnswer_block.1 ha
  exact disarmTrace_owning (d := .rx) (s := overran nb l s) hnull hfill

/-- Settles O45: the loss of the completed Block, or one of two faults, each with TX taken along or
not. -/
theorem receiveLosses : Obligations.ReceiveLosses := by
  unfold Obligations.ReceiveLosses
  refine fun s l h hst => ⟨fun nb calls hb hfull hl ha hcalls => ?_, fun hl => ?_⟩
  · rw [exec_rxDone_full h hst hb hfull hl ha]
    have hlog : (overran nb l s).log = s.log ++ calls := by rw [overran_eq, hcalls]
    have htrace := disarmTrace_overran ha l
    refine ⟨fun hdrop => ?_, fun hdrop hpeer => ?_, fun hdrop hfd hf => ?_⟩
    · rw [if_pos hdrop, overran_eq, hcalls]
    · rw [if_neg (ne_true_of_eq_false hdrop),
        fault_alone (d := .rx) (s := overran nb l s) hpeer, faultOne_faulted, disableTrace_events,
        htrace, hlog, overran_eq, ← List.append_assoc]
      rfl
    · rw [if_neg (ne_true_of_eq_false hdrop),
        fault_coupled (d := .rx) (s := overran nb l s) hfd hf, disableTrace_events, htrace, hlog,
        overran_eq, ← List.append_assoc]
      rfl
  · rw [exec_rxDone_busy h hst hl]
    refine ⟨fun hpeer => ?_, fun hfd hf => ?_⟩
    · rw [fault_alone (d := .rx) (s := asked .rx .busy l s) hpeer, faultOne_faulted]
      rfl
    · rw [fault_coupled (d := .rx) (s := asked .rx .busy l s) hfd hf]
      rfl

end Sys2Proof.Machine
end

section
/-! Successful TX completions (42_completion.md R215 to R219): the next Block, the filler, the
underrun and the end of a drain. -/

namespace Sys2Proof.Machine

/-! ### The return of the sent Block -/

/-- The filler belongs to AFBQ: nothing is freed or copied (R215, R217). -/
theorem sent_filler {s : State} (h : s.tx.active.h = s.par.filler) :
    sent s = { s with tx := { s.tx with active := Block.null } } := by
  rw [sent, releaseSent, if_neg (not_not.2 h)]
  rfl

/-- A pool's Block is freed, after the filler copy under the repeat policy (R215, R216). -/
theorem sent_block {s : State} (h : s.tx.active.h ≠ s.par.filler) :
    sent s = { s with
      tx := { s.tx with active := Block.null },
      fillerSize := if repeatOnUnderrun s then s.tx.active.sz else s.fillerSize,
      fillerBuf := if repeatOnUnderrun s then s.tx.active else s.fillerBuf,
      log := s.log ++
        (if repeatOnUnderrun s then [.call (.fillerCopy s.tx.active.h s.tx.active.sz)] else []) ++
        [.call (.poolFree .tx s.tx.active.h)] } := by
  rw [sent, releaseSent, if_pos h, copyFiller]
  cases repeatOnUnderrun s <;> simp [emit, record, setActive, State.upd]

@[simp] theorem sent_par (s : State) : (sent s).par = s.par := by rw [sent_eq]

@[simp] theorem sent_rx (s : State) : (sent s).rx = s.rx := by rw [sent_eq]

@[simp] theorem sent_tx (s : State) : (sent s).tx = { s.tx with active := Block.null } := by
  rw [sent_eq]

@[simp] theorem sent_lastBlockFlag (s : State) : (sent s).lastBlockFlag = s.lastBlockFlag := by
  rw [sent_eq]

@[simp] theorem sent_periphEnabled (s : State) : (sent s).periphEnabled = s.periphEnabled := by
  rw [sent_eq]

@[simp] theorem sent_fullDuplex (s : State) : (sent s).fullDuplex = s.fullDuplex := by
  rw [sent_eq]

/-- Disabling TX once its Block went back frees nothing more (41_trigger.md R172). -/
theorem disableTrace_sent (s : State) :
    (disableTrace .tx (sent s)).map Event.call = [.call (.dmareqDisable .tx),
      .call (.errirqDisable .tx), .call (.dmaStop .tx)] ++
      if s.rx.armed = false then [.call .periphDisable] else [] := by
  rw [disableTrace_events, disarmTrace_null (d := .tx) (congrArg Block.h (sent_active s)),
    other_tx, stream_rx, sent_rx]
  rfl

/-! ### The three ways a completion goes on -/

theorem occ_pos_of_queued {d : Dir} {s : State} {b : Block} {rest : List Block}
    (hq : queued d s = b :: rest) : 0 < occ d s := by
  rw [← queued_length, hq]
  exact Nat.succ_pos _

theorem head_eq_tail_of_queued {d : Dir} {s : State} (hb : StreamBounds d s)
    (hq : queued d s = []) : (s.stream d).head = (s.stream d).tail :=
  (occ_eq_zero_iff hb).1 ((queued_eq_nil_iff d s).1 hq)

/-- In STOPPING the last Block is marked (R218). -/
theorem txNext_lastBlockFlag (b : Block) (s : State) :
    (txNext b s).lastBlockFlag =
      (s.lastBlockFlag || decide (s.tx.state = .stopping ∧ occ .tx s = 0)) := by
  have hocc : occ .tx (give .tx { s with underrun := false }) = occ .tx s := give_occ .tx _
  rw [txNext, markLast_eq, hocc]
  rfl

/-- A Block is queued: the oldest one goes out, and in STOPPING the last one is marked (R215,
R218). -/
theorem txDoneOk_next {s : State} (hb : StreamBounds .tx s) (hl : s.lastBlockFlag = false)
    {b : Block} {rest : List Block} (hq : queued .tx s = b :: rest) :
    txDoneOk s = { sent s with
      tx := { s.tx with
        active := b,
        tail := (s.tx.tail + 1) % (s.par.qcapTx + 1),
        giveCnt := (s.tx.giveCnt + 1) % 2 ^ cntW s.par.qcapTx },
      underrun := false,
      lastBlockFlag := decide (s.tx.state = .stopping ∧ rest = []),
      log := (sent s).log ++ [.call (.cacheClean b.h b.sz),
        .call (.dmaReload .tx (.block b.h) .periphDr b.sz)] } := by
  have hocc := occ_pos_of_queued hq
  obtain ⟨rfl, rfl⟩ := List.cons.inj (hq.symm.trans (queued_pop hb hocc))
  have hempty : occ .tx (popped .tx (sent s)) = 0 ↔ queued .tx (popped .tx s) = [] := by
    rw [queued_eq_nil_iff, sent_eq]
    rfl
  have hne : s.tx.head ≠ s.tx.tail := fun he => hocc.ne' ((occ_eq_zero_iff hb).2 he)
  rcases txDoneOk_cases s with ⟨hlast, -⟩ | ⟨-, he, -⟩ | ⟨-, -, hnext⟩
  · simp [hl] at hlast
  · exact absurd he hne
  · rw [hnext, txNext_eq, txNext_lastBlockFlag]
    simp only [hempty]
    simp [popped, State.upd, nextIndex, flowMod, hl]

/-- The end of a drain (R218). -/
theorem txDoneOk_drained {s : State} (hb : StreamBounds .tx s)
    (h : s.lastBlockFlag = true ∨ (s.tx.state = .stopping ∧ queued .tx s = [])) :
    txDoneOk s = { sent s with
      tx := { s.tx.disabled with state := .ready },
      lastBlockFlag := false,
      periphEnabled := s.rx.armed && s.periphEnabled,
      log := (sent s).log ++ [.call (.dmareqDisable .tx), .call (.errirqDisable .tx),
          .call (.dmaStop .tx)] ++
        (if s.rx.armed = false then [.call .periphDisable] else []) } := by
  have hend : txDoneOk s = drainEnd (sent s) := by
    rcases txDoneOk_cases s with ⟨-, he⟩ | ⟨hl, -, he⟩ | ⟨hl, hne, -⟩
    · exact he
    · obtain ⟨hst, -⟩ := h.resolve_left (by simp [hl])
      have hst' : (sent s).tx.state = .stopping := by simpa using hst
      rw [he, txEmpty, if_pos hst']
    · obtain ⟨-, hq⟩ := h.resolve_left (by simp [hl])
      exact absurd (head_eq_tail_of_queued hb hq) hne
  have htrace : disarmTrace .tx (setState .tx .ready (sent s)) =
      [.dmareqDisable .tx, .errirqDisable .tx, .dmaStop .tx] :=
    disarmTrace_null (congrArg Block.h (sent_active s))
  rw [hend, drainEnd, disable_eq, disableTrace_events, htrace]
  simp [setState, State.upd, Stream.disabled]

/-- Nothing is queued in RUNNING: the filler goes out under the repeat policy, or the stream faults
(R215, R217). -/
theorem txDoneOk_starved {s : State} (hb : StreamBounds .tx s) (hl : s.lastBlockFlag = false)
    (hst : s.tx.state = .running) (hq : queued .tx s = []) :
    txDoneOk s = if repeatOnUnderrun s
      then txSend { h := s.par.filler, sz := (sent s).fillerSize } { sent s with underrun := true }
      else fault .tx .underrun (sent s) := by
  rcases txDoneOk_cases s with ⟨hlast, -⟩ | ⟨-, -, he⟩ | ⟨-, hne, -⟩
  · simp [hl] at hlast
  · have hst' : (sent s).tx.state ≠ .stopping := by simp [hst]
    rw [he, txEmpty, if_neg hst']
    simp [repeatOnUnderrun]
  · exact absurd (head_eq_tail_of_queued hb hq) hne

/-! ### The completions -/

/-- Settles O46: the sent Block is a pool's. -/
theorem transmitNext : Obligations.TransmitNext := by
  unfold Obligations.TransmitNext
  intro s copied h hb hne hcopied
  subst hcopied
  rw [exec_txDone_ok h]
  refine ⟨fun b rest hl hq => ?_, fun hend => ?_⟩
  · rw [txDoneOk_next hb hl hq, sent_block hne]
    simp [repeatOnUnderrun, Cfg.repeatOnUnderrun]
  · rw [txDoneOk_drained hb hend, sent_block hne]
    simp [repeatOnUnderrun, Cfg.repeatOnUnderrun]

/-- Settles O47: the sent Block is the filler. -/
theorem fillerCompletion : Obligations.FillerCompletion := by
  unfold Obligations.FillerCompletion
  intro s h hb hfill
  rw [exec_txDone_ok h]
  refine ⟨fun b rest hl hq => ?_, fun hl hst hq hrep => ?_, fun hend => ?_⟩
  · rw [txDoneOk_next hb hl hq, sent_filler hfill]
  · have hrep' : repeatOnUnderrun s = true := hrep
    rw [txDoneOk_starved hb hl hst hq, if_pos hrep', sent_filler hfill]
    simp [txSend, setActive, emit, record, State.upd]
  · rw [txDoneOk_drained hb hend, sent_filler hfill]

/-- Under the default policy nothing is copied (R215, R216). -/
theorem sent_default {s : State} (h : repeatOnUnderrun s = false) :
    sent s = { s with
      tx := { s.tx with active := Block.null },
      log := s.log ++ if s.tx.active.h = s.par.filler then []
        else [.call (.poolFree .tx s.tx.active.h)] } := by
  by_cases hfill : s.tx.active.h = s.par.filler
  · rw [sent_filler hfill]
    simp [hfill]
  · rw [sent_block hfill]
    simp [hfill, h]

/-- Settles O48: the filler goes out, or the stream faults with or without RX. -/
theorem transmitUnderrun : Obligations.TransmitUnderrun := by
  unfold Obligations.TransmitUnderrun
  intro s calls h hst hl hb hq hcalls
  rw [exec_txDone_ok h, txDoneOk_starved hb hl hst hq]
  refine ⟨fun hrep hne => ?_, fun hrep hpeer => ?_, fun hrep hfd hf => ?_⟩
  · have hrep' : repeatOnUnderrun s = true := hrep
    rw [if_pos hrep', sent_block hne, hrep']
    simp [txSend, setActive, emit, record, State.upd]
  · have hrep' : repeatOnUnderrun s = false := hrep
    rw [if_neg (ne_true_of_eq_false hrep'), fault_alone (d := .tx) (by simpa using hpeer),
      faultOne_faulted, disableTrace_sent, sent_default hrep', hcalls]
    simp [State.upd, Stream.faulted, Stream.disabled, hl]
  · have hrep' : repeatOnUnderrun s = false := hrep
    have hrx : disarmTrace .rx (sent s) = disarmTrace .rx s :=
      disarmTrace_congr (sent_par s) (sent_rx s)
    rw [if_neg (ne_true_of_eq_false hrep'), fault_coupled (d := .tx) (by simpa) (by simpa),
      disableTrace_sent, other_tx, hrx, sent_default hrep', hcalls]
    simp [State.upd, Stream.faulted, Stream.disabled, hl]

end Sys2Proof.Machine
end

section
/-! A drain plays the queue out (42_completion.md R215, R218; 41_trigger.md R177): each successful TX
completion in STOPPING sends the next Block, and the one after the last ends READY. -/

namespace Sys2Proof.Machine

/-! ### What is given back to a pool -/

theorem freed_of_log {d : Dir} {s t : State} {l : List Event} (h : t.log = s.log ++ l) :
    freed d t = freed d s ++ (callsOf l).filterMap (freedBy d) := by
  simp [freed, trace, h]

theorem freed_eq_of_log {d : Dir} {s t : State} {l : List Event} (h : t.log = s.log ++ l)
    (hl : (callsOf l).filterMap (freedBy d) = []) : freed d t = freed d s := by
  rw [freed_of_log h, hl, List.append_nil]

/-- Returning the sent Block frees it, unless it is the filler (R215). -/
theorem freed_sent (s : State) :
    freed .tx (sent s) =
      freed .tx s ++ if s.tx.active.h = s.par.filler then [] else [s.tx.active.h] := by
  by_cases hfill : s.tx.active.h = s.par.filler
  · rw [if_pos hfill, List.append_nil, sent_filler hfill]
    rfl
  · refine (freed_of_log (s := s) (by rw [sent_block hfill, List.append_assoc])).trans ?_
    rw [if_neg hfill]
    cases repeatOnUnderrun s <;> rfl

/-! ### One completion -/

theorem txDones_succ {s : State} (h : s.tx.armed = true) (n : Nat) :
    txDones (n + 1) s = txDones n (txDoneOk s) := by
  simp only [txDones, exec_txDone_ok h]

/-- The Block under DMA is not the last one as long as something is queued (R41, R218). -/
theorem Inv.not_last_of_queued {s : State} (i : Inv s) (hst : s.tx.state = .stopping)
    (hq : queued .tx s ≠ []) : s.lastBlockFlag = false :=
  Bool.eq_false_iff.2 fun hl => hq ((queued_eq_nil_iff .tx s).2 ((i.tx.last_empty hst).1 hl))

theorem Inv.armed_of_stopping {s : State} (i : Inv s) (hst : s.tx.state = .stopping) :
    s.tx.armed = true := i.tx.stream.armed_iff.2 (.inr hst)

theorem txDoneOk_par (s : State) : (txDoneOk s).par = s.par := by rw [(txDoneOk_change s).eq]

/-- Taking the next Block takes it off the queue (R142, R215). -/
theorem queued_txDoneOk {s : State} (hb : StreamBounds .tx s) (hl : s.lastBlockFlag = false)
    {b : Block} {rest : List Block} (hq : queued .tx s = b :: rest) :
    queued .tx (txDoneOk s) = rest := by
  obtain ⟨-, hrest⟩ := List.cons.inj (hq.symm.trans (queued_pop hb (occ_pos_of_queued hq)))
  rw [hrest]
  refine queued_eq_of (txDoneOk_par s) ?_ ?_ ?_ <;> rw [txDoneOk_next hb hl hq] <;> rfl

/-- A completion in STOPPING with a Block queued sends it and stays in STOPPING (R218). -/
theorem drain_goes_on {s : State} (i : Inv s) (hst : s.tx.state = .stopping) {b : Block}
    {rest : List Block} (hq : queued .tx s = b :: rest) :
    (txDoneOk s).tx.state = .stopping ∧ (txDoneOk s).tx.active = b ∧
      queued .tx (txDoneOk s) = rest ∧ freed .tx (txDoneOk s) = freed .tx (sent s) := by
  have hl := i.not_last_of_queued hst (by simp [hq])
  have hnext := txDoneOk_next (i.bounds .tx) hl hq
  refine ⟨by rw [hnext]; exact hst, by rw [hnext], queued_txDoneOk (i.bounds .tx) hl hq, ?_⟩
  exact freed_eq_of_log (by rw [hnext]) rfl

/-- A completion in STOPPING with nothing queued ends READY, the counter at QCAP (R218). -/
theorem drain_ends {s : State} (i : Inv s) (hst : s.tx.state = .stopping)
    (hq : queued .tx s = []) :
    (txDoneOk s).tx.state = .ready ∧ (txDoneOk s).tx.armed = false ∧
      queued .tx (txDoneOk s) = [] ∧ flowTrue .tx (txDoneOk s) = s.par.qcapTx ∧
      freed .tx (txDoneOk s) = freed .tx (sent s) := by
  have hend := txDoneOk_drained (i.bounds .tx) (.inr ⟨hst, hq⟩)
  have hq' : queued .tx (txDoneOk s) = [] := by
    rw [← hq]
    refine queued_eq_of (txDoneOk_par s) ?_ ?_ ?_ <;> rw [hend] <;> rfl
  have hflow := (inv_txDoneOk i (i.armed_of_stopping hst)).tx.flow
  rw [(queued_eq_nil_iff .tx _).1 hq', qcap_tx, txDoneOk_par] at hflow
  refine ⟨by rw [hend], by rw [hend]; rfl, hq', hflow, ?_⟩
  refine freed_eq_of_log (by rw [hend, List.append_assoc]) ?_
  cases s.rx.armed <;> rfl

/-! ### The whole drain -/

/-- As long as Blocks are queued the stream stays in STOPPING, each completion taking one (R218). -/
theorem txDones_stopping {k : Nat} {s : State} (i : Inv s) (hst : s.tx.state = .stopping)
    (hk : k ≤ occ .tx s) :
    ∃ t, txDones k s = some t ∧ t.tx.state = .stopping ∧ queued .tx t = (queued .tx s).drop k := by
  induction k generalizing s with
  | zero => exact ⟨s, rfl, hst, rfl⟩
  | succ k ih =>
    have harm := i.armed_of_stopping hst
    cases hq : queued .tx s with
    | nil =>
      have hempty := (queued_eq_nil_iff .tx s).1 hq
      omega
    | cons b rest =>
      obtain ⟨hst', -, hrest, -⟩ := drain_goes_on i hst hq
      have hk' : k ≤ occ .tx (txDoneOk s) := by
        rw [← queued_length, hq, List.length_cons] at hk
        rw [← queued_length, hrest]
        omega
      obtain ⟨t, ht, htst, htq⟩ := ih (inv_txDoneOk i harm) hst' hk'
      exact ⟨t, (txDones_succ harm k).trans ht, htst, by rw [htq, hrest, List.drop_succ_cons]⟩

/-- The completion after the last queued Block ends the drain, by induction on the queue (R218). -/
theorem txDones_ready {l : List Block} {s : State} (i : Inv s) (hst : s.tx.state = .stopping)
    (hq : queued .tx s = l) :
    ∃ t, txDones (l.length + 1) s = some t ∧ t.tx.state = .ready ∧ t.tx.armed = false ∧
      queued .tx t = [] ∧ flowTrue .tx t = s.par.qcapTx ∧
      freed .tx t = freed .tx (sent s) ++ l.map fun b => b.h := by
  have harm := i.armed_of_stopping hst
  induction l generalizing s with
  | nil =>
    obtain ⟨hready, hoff, hempty, hflow, hfreed⟩ := drain_ends i hst hq
    exact ⟨txDoneOk s, txDones_succ harm 0, hready, hoff, hempty, hflow, by simpa using hfreed⟩
  | cons b rest ih =>
    obtain ⟨hst', hact, hrest, hfreed⟩ := drain_goes_on i hst hq
    have i' := inv_txDoneOk i harm
    obtain ⟨t, ht, hready, hoff, hempty, hflow, hall⟩ :=
      ih i' hst' hrest (i'.armed_of_stopping hst')
    obtain ⟨-, hne, -⟩ := i.tx.stream.queued_pool b (by simp [hq])
    refine ⟨t, (txDones_succ harm _).trans ht, hready, hoff, hempty, ?_, ?_⟩
    · rw [hflow, txDoneOk_par]
    · rw [hall, freed_sent, hact, txDoneOk_par, if_neg hne, hfreed]
      simp

/-- Settles O35: the run up to the last queued Block, and one completion more. -/
theorem drainPlaysOut : Obligations.DrainPlaysOut := by
  unfold Obligations.DrainPlaysOut
  intro s i hst
  refine ⟨fun k hk => txDones_stopping i hst hk, ?_⟩
  rw [← queued_length, ← freed_sent]
  exact txDones_ready i hst rfl

end Sys2Proof.Machine
end

section
/-! READ and WRITE (43_read_write.md R241 to R251): their words and their accept steps, when a wait
is granted or timed out, and what a grant, a timeout and a TICK change. -/

namespace Sys2Proof.Machine

/-! ### The words of READ and WRITE -/

/-- READ has one word, and no payload (R241). -/
theorem decodeCommand_read_iff {b : Bundle} :
    decodeCommand b = .ok .read ↔ b.cw = 0x40000000#32 :=
  ⟨fun h => (encode_decodeCommand h).2.2.symm,
    decodeCommand_plain (op := 4#4) (dir := .rx) (by decide) (by decide) rfl⟩

/-- WRITE has one word, and its operands are the payload wires (R107, R246). -/
theorem decodeCommand_write_iff {b : Bundle} {blk : Handle} {size : Size} :
    decodeCommand b = .ok (.write blk size) ↔
      b.cw = 0x54000000#32 ∧ b.blk = blk ∧ b.size = size := by
  have hok : b.cw = 0x54000000#32 → decodeCommand b = .ok (.write b.blk b.size) :=
    decodeCommand_plain (op := 5#4) (dir := .tx) (by decide) (by decide) rfl
  constructor
  · intro h
    have hw : b.cw = 0x54000000#32 := (encode_decodeCommand h).2.2.symm
    rw [hok hw] at h
    cases h
    exact ⟨hw, rfl, rfl⟩
  · rintro ⟨hw, rfl, rfl⟩
    exact hok hw

/-! ### The accept step of READ -/

theorem execRead_refused {s : State} (hidle : s.rdPhase = .idle)
    (hst : s.rx.state = .notReady ∨ s.rx.state = .error) :
    exec .read s = .next { s with log := s.log ++ [answered .rd .invalidState] } := by
  have hch : channelIdle .rd s = true := decide_eq_true hidle
  exact (if_pos hch).trans (if_pos hst)

theorem execRead_accepted {s : State} (hidle : s.rdPhase = .idle)
    (hst : ¬(s.rx.state = .notReady ∨ s.rx.state = .error)) :
    exec .read s = .next { s with rdTimer := s.rx.cfg.timeout, rdPhase := .wait } := by
  have hch : channelIdle .rd s = true := decide_eq_true hidle
  exact (if_pos hch).trans (if_neg hst)

/-- Settles O22: the decoder's one word of READ, and the two branches of its accept step. -/
theorem readAccept : Obligations.ReadAccept := by
  unfold Obligations.ReadAccept
  refine ⟨fun b => ⟨decodeCommand_read_iff, fun hw => ?_⟩, fun s hidle =>
    ⟨execRead_refused hidle, fun hst => execRead_accepted hidle ?_⟩⟩
  · rw [hw]
    decide
  · rcases hst with hst | hst | hst <;> simp [hst]

/-! ### The accept step of WRITE -/

theorem writeArgsBad_iff {h : Handle} {size : Size} {s : State} :
    writeArgsBad h size s = true ↔
      size = 0#32 ∨ s.tx.cfg.blockSize < size ∨ h = NULL ∨ h = s.par.filler := by
  simp only [writeArgsBad, Bool.or_eq_true, decide_eq_true_eq, or_assoc]

/-- A handle of BLK_W bits is what its wires carry (R7, R107). -/
theorem wired_of_fits {w : Nat} {h : Handle} (hf : h.fits w) : h.wired w = h := by
  rw [Handle.wired, Nat.mod_eq_of_lt hf]

theorem execWrite_badState {s : State} (hidle : s.wrPhase = .idle)
    (hready : s.tx.state ≠ .ready) (hrun : s.tx.state ≠ .running) (blk : Handle) (size : Size) :
    exec (.write blk size) s = .next { s with log := s.log ++ [answered .wr .invalidState] } := by
  have hch : channelIdle .wr s = true := decide_eq_true hidle
  exact (if_pos hch).trans (if_pos ⟨hready, hrun⟩)

/-- In READY and RUNNING an idle WRITE comes to the check of its operands (R246). -/
theorem execWrite_args {s : State} (hidle : s.wrPhase = .idle)
    (hst : s.tx.state = .ready ∨ s.tx.state = .running) (blk : Handle) (size : Size) :
    exec (.write blk size) s =
      if writeArgsBad (blk.wired s.par.blkW) size s then .next (respond .wr .invalidArgument s)
      else .next { s with
        wrH := blk.wired s.par.blkW, wrSz := size, wrTimer := s.tx.cfg.timeout,
        wrPhase := .wait } := by
  have hch : channelIdle .wr s = true := decide_eq_true hidle
  have hok : ¬(s.tx.state ≠ .ready ∧ s.tx.state ≠ .running) := by tauto
  exact (if_pos hch).trans (if_neg hok)

theorem execWrite_badArgs {s : State} (hidle : s.wrPhase = .idle)
    (hst : s.tx.state = .ready ∨ s.tx.state = .running) {blk : Handle} {size : Size}
    (hbad : writeArgsBad (blk.wired s.par.blkW) size s = true) :
    exec (.write blk size) s =
      .next { s with log := s.log ++ [answered .wr .invalidArgument] } :=
  (execWrite_args hidle hst blk size).trans (if_pos hbad)

theorem execWrite_accepted {s : State} (hidle : s.wrPhase = .idle)
    (hst : s.tx.state = .ready ∨ s.tx.state = .running) {blk : Handle} {size : Size}
    (hgood : writeArgsBad (blk.wired s.par.blkW) size s = false) :
    exec (.write blk size) s = .next { s with
      wrH := blk.wired s.par.blkW, wrSz := size, wrTimer := s.tx.cfg.timeout,
      wrPhase := .wait } :=
  (execWrite_args hidle hst blk size).trans (if_neg (by simp [hgood]))

/-- Settles O23: the decoder's one word of WRITE, and the three branches of its accept step. -/
theorem writeAccept : Obligations.WriteAccept := by
  unfold Obligations.WriteAccept
  refine ⟨fun b blk size => ⟨decodeCommand_write_iff, fun hw => ?_⟩, ?_⟩
  · rw [hw]
    decide
  · rintro s blk _ size hidle rfl
    refine ⟨wired_of_fits, fun hready hrun => execWrite_badState hidle hready hrun blk size,
      fun hst hbad => execWrite_badArgs hidle hst (writeArgsBad_iff.2 hbad),
      fun hst h0 hle hnull hfill => execWrite_accepted hidle hst ?_⟩
    rw [Bool.eq_false_iff, Ne, writeArgsBad_iff]
    rintro (h | h | h | h)
    · exact h0 h
    · exact BitVec.not_lt.2 hle h
    · exact hnull h
    · exact hfill h

/-! ### When a wait is granted or timed out -/

theorem enabled_rdGrant_iff {s : State} :
    enabled .rdGrant s = true ↔ s.rdPhase = .wait ∧ 0 < flowView .rx s := by
  rw [enabled, Bool.and_eq_true, decide_eq_true_iff, decide_eq_true_iff]

theorem enabled_wrGrant_iff {s : State} :
    enabled .wrGrant s = true ↔ s.wrPhase = .wait ∧ 0 < flowView .tx s := by
  rw [enabled, Bool.and_eq_true, decide_eq_true_iff, decide_eq_true_iff]

theorem enabled_rdTimeout_iff {s : State} :
    enabled .rdTimeout s = true ↔ s.rdPhase = .wait ∧ s.rdTimer = 0#32 ∧ flowView .rx s = 0 := by
  rw [enabled, Bool.and_eq_true, Bool.and_eq_true, decide_eq_true_iff, decide_eq_true_iff,
    decide_eq_true_iff, and_assoc]

theorem enabled_wrTimeout_iff {s : State} :
    enabled .wrTimeout s = true ↔ s.wrPhase = .wait ∧ s.wrTimer = 0#32 ∧ flowView .tx s = 0 := by
  rw [enabled, Bool.and_eq_true, Bool.and_eq_true, decide_eq_true_iff, decide_eq_true_iff,
    decide_eq_true_iff, and_assoc]

theorem tickTimer_eq (p : Phase) (t : Ticks) :
    tickTimer p t = if p = .wait ∧ t ≠ 0#32 then t - 1#32 else t := by
  simp only [tickTimer, BitVec.pos_iff_ne_zero]

/-- Settles O26: `enabled` clause by clause; a timeout is one update and one answer, and a TICK
steps both timers. -/
theorem timersAndTimeouts : Obligations.TimersAndTimeouts := by
  unfold Obligations.TimersAndTimeouts
  refine fun s => ⟨enabled_rdTimeout_iff, enabled_rdGrant_iff, fun _ => rfl,
    enabled_wrTimeout_iff, enabled_wrGrant_iff, fun _ => rfl, rfl, ?_⟩
  rw [← tickTimer_eq, ← tickTimer_eq]
  rfl

/-! ### RD_GRANT -/

/-- What Take and Pop write of RX (40_queue_flow.md R142, R149). -/
theorem popped_take_rx (s : State) :
    popped .rx (take .rx s) = { s with
      rx := { s.rx with
        tail := (s.rx.tail + 1) % (s.par.qcapRx + 1),
        takeCnt := (s.rx.takeCnt + 1) % 2 ^ cntW s.par.qcapRx } } := by
  simp only [popped, take, State.upd, nextIndex, flowMod, State.qcap]

/-- Where RD_GRANT is enabled a Block is queued, because the view does not exceed the queue
(R242). -/
theorem RxInv.occ_pos {s : State} (i : RxInv s) (hview : 0 < flowView .rx s) :
    0 < occ .rx s := by
  have hle := i.stream.view_le
  have hflow := i.flow
  omega

/-- Settles O24: Take and Pop, then the channel is released and the popped Block answered. -/
theorem readGrantDelivers : Obligations.ReadGrantDelivers := by
  unfold Obligations.ReadGrantDelivers
  intro s i he
  obtain ⟨-, hview⟩ := enabled_rdGrant_iff.1 he
  have hocc := i.occ_pos hview
  have hbounds := i.stream.bounds
  have hne : s.rx.head ≠ s.rx.tail := fun hempty =>
    hocc.ne' ((occ_eq_zero_iff (d := .rx) hbounds).2 hempty)
  have hqueue := queued_pop (take_bounds hbounds) (by rwa [take_occ])
  rw [take_queued] at hqueue
  have heq := rdGrant_of_ne hne
  have hpar : (rdGrant s).par = (popped .rx (take .rx s)).par := by
    rw [heq]
    rfl
  have hrx : (rdGrant s).stream .rx = (popped .rx (take .rx s)).stream .rx := by
    rw [heq, popped_take_rx]
    rfl
  refine ⟨_, _, hqueue, ?_, queued_congr hpar hrx, ?_, ?_⟩
  · rw [runMove, heq, popped_take_rx]
    rfl
  · rw [flowTrue_congr hpar hrx, popped_flowTrue,
      take_flowTrue (hview.trans_le i.stream.view_le)]
  · rw [flowView_congr hpar hrx, popped_flowView, take_flowView hview]

/-! ### WR_GRANT -/

/-- What Take and Push write of TX (40_queue_flow.md R141, R149). -/
theorem pushed_take_tx (b : Block) (s : State) :
    pushed .tx b (take .tx s) = { s with
      tx := { s.tx with
        slots := Memory.write s.tx.slots s.tx.head b,
        head := (s.tx.head + 1) % (s.par.qcapTx + 1),
        takeCnt := (s.tx.takeCnt + 1) % 2 ^ cntW s.par.qcapTx } } := by
  simp only [pushed, take, State.upd, nextIndex, flowMod, State.qcap]

/-- Where WR_GRANT is enabled the queue has room, because the view does not exceed the free slots
(R247). -/
theorem TxInv.occ_lt {s : State} (i : TxInv s) (hview : 0 < flowView .tx s) :
    occ .tx s < s.qcap .tx := by
  have hle := i.stream.view_le
  have hflow := i.flow
  omega

/-- WR_GRANT with room in the queue: Take and Push, then the channel is released and OK answered. -/
theorem wrGrant_of_occ_lt {s : State} (h : StreamBounds .tx s) (hroom : occ .tx s < s.qcap .tx) :
    wrGrant s = respond .wr .ok
      (wrIdle (appGives s.wrH (pushed .tx (latchedBlock s) (take .tx s)))) := by
  rcases wrGrant_cases s with ⟨_, heq⟩ | ⟨hfull, _⟩
  · exact heq
  · have hocc := (push_full (take_bounds h) _).1 hfull
    rw [take_occ] at hocc
    exact absurd hocc hroom.ne

/-- Settles O25: Take and Push, then the channel is released and OK answered. -/
theorem writeGrantQueues : Obligations.WriteGrantQueues := by
  unfold Obligations.WriteGrantQueues
  intro s i he
  obtain ⟨-, hview⟩ := enabled_wrGrant_iff.1 he
  have hroom := i.occ_lt hview
  have hbounds := i.stream.bounds
  have hqueue := pushed_queued (take_bounds hbounds) (latchedBlock s) (by rwa [take_occ])
  rw [take_queued] at hqueue
  have heq := wrGrant_of_occ_lt hbounds hroom
  have hpar : (wrGrant s).par = (pushed .tx (latchedBlock s) (take .tx s)).par := by
    rw [heq]
    rfl
  have htx : (wrGrant s).stream .tx = (pushed .tx (latchedBlock s) (take .tx s)).stream .tx := by
    rw [heq, pushed_take_tx]
    rfl
  refine ⟨?_, (queued_congr hpar htx).trans hqueue, ?_, ?_⟩
  · rw [runMove, heq, pushed_take_tx]
    rfl
  · rw [flowTrue_congr hpar htx, pushed_flowTrue,
      take_flowTrue (hview.trans_le i.stream.view_le)]
  · rw [flowView_congr hpar htx, pushed_flowView, take_flowView hview]

end Sys2Proof.Machine
end

section
/-! No wait is timed out early (43_read_write.md R252 item 1): whatever happens while a READ or
WRITE waits, its timer goes down by TICKs alone, one for each, or the wait is over. -/

namespace Sys2Proof.Machine

/-! ### A wait and its timer -/

/-- The data channel of stream `d` (10_state.md R37, R38). -/
def dataChannel : Dir → Channel
  | .rx => .rd
  | .tx => .wr

/-- The timer of that channel. -/
def waitTimer (d : Dir) (s : State) : Ticks :=
  match d with
  | .rx => s.rdTimer
  | .tx => s.wrTimer

/-- In `t` the wait on stream `d` is over, or it stands as it did in `s`, its timer untouched. -/
def WaitKept (d : Dir) (s t : State) : Prop :=
  channelIdle (dataChannel d) t = true ∨
    channelIdle (dataChannel d) t = channelIdle (dataChannel d) s ∧ waitTimer d t = waitTimer d s

theorem WaitKept.refl (d : Dir) (s : State) : WaitKept d s s := .inr ⟨rfl, rfl⟩

theorem WaitKept.trans {d : Dir} {s t u : State} (h : WaitKept d s t) (g : WaitKept d t u) :
    WaitKept d s u := by
  rcases g with hidle | ⟨hch, htimer⟩
  · exact .inl hidle
  · rcases h with hidle | ⟨hch', htimer'⟩
    · exact .inl (hch.trans hidle)
    · exact .inr ⟨hch.trans hch', htimer.trans htimer'⟩

theorem WaitKept.foldl {α : Type} {d : Dir} {f : State → α → State}
    (h : ∀ u a, WaitKept d u (f u a)) (l : List α) (s : State) : WaitKept d s (l.foldl f s) := by
  induction l generalizing s with
  | nil => exact .refl d s
  | cons a l ih => exact (h s a).trans (ih _)

/-- What spares a side spares its channel. -/
theorem SideSame.waitKept {d : Dir} {s t : State} (h : SideSame d s t) : WaitKept d s t := by
  cases d
  · obtain ⟨-, hphase, htimer⟩ := h.rx rfl
    exact .inr ⟨by simp only [channelIdle, dataChannel, hphase], htimer⟩
  · obtain ⟨-, -, -, -, hphase, htimer, -, -⟩ := h.tx rfl
    exact .inr ⟨by simp only [channelIdle, dataChannel, hphase], htimer⟩

theorem EnvChange.waitKept {s t : State} (h : EnvChange t s) (d : Dir) : WaitKept d s t :=
  (SideSame.of_env h d).waitKept

theorem waitKept_record (d : Dir) (e : Event) (s : State) : WaitKept d s (record e s) :=
  (EnvChange.record e s).waitKept d

/-- A change of stream `e` that spares the other side and keeps or ends the wait on `e`. -/
theorem waitKept_of_side {e : Dir} {s t : State} (hs : SideSame e.other s t)
    (h : WaitKept e s t) (d : Dir) : WaitKept d s t := by
  by_cases hd : d = e
  · rw [hd]
    exact h
  · have hother : d = e.other := by cases d <;> cases e <;> trivial
    rw [hother]
    exact hs.waitKept

/-! ### The procedures -/

theorem channelIdle_upd (ch : Channel) (e : Dir) (f : Stream → Stream) (s : State) :
    channelIdle ch (s.upd e f) = channelIdle ch s := by
  cases ch <;> simp [channelIdle]

theorem waitKept_upd (d e : Dir) (f : Stream → Stream) (s : State) :
    WaitKept d s (s.upd e f) :=
  .inr ⟨channelIdle_upd _ e f s, by cases d <;> simp [waitTimer]⟩

/-- FlowReset ends the wait on its stream (40_queue_flow.md R152). -/
theorem flowReset_idle (e : Dir) (s : State) :
    channelIdle (dataChannel e) (flowReset e s) = true := by
  cases e
  · rw [flowReset_rx]
    rfl
  · rw [flowReset_tx]
    rfl

theorem stopStream_idle (e : Dir) (s : State) :
    channelIdle (dataChannel e) (stopStream e s) = true :=
  (channelIdle_upd _ e _ _).trans ((channelIdle_upd _ e _ _).trans (flowReset_idle e _))

theorem prepareOne_idle (e : Dir) (s : State) :
    channelIdle (dataChannel e) (prepareOne e s) = true := by
  have hloss : ∀ u, channelIdle (dataChannel e) (clearLoss e u) =
      channelIdle (dataChannel e) u := fun u => by cases e <;> rfl
  refine (channelIdle_upd _ e _ _).trans ((hloss _).trans ?_)
  exact (channelIdle_upd _ e _ _).trans (flowReset_idle e _)

theorem configureOne_idle (e : Dir) (c : Cfg) (s : State) :
    channelIdle (dataChannel e) (configureOne e c s) = true := by
  rw [configureOne_eq, storeCfg]
  split <;>
    exact (channelIdle_upd _ e _ _).trans
      ((channelIdle_upd _ e _ _).trans (prepareOne_idle e s))

/-- DRAIN ends the wait on its target: RX stops, and TX aborts a waiting WRITE (41_trigger.md
R177). -/
theorem drainOne_idle (e : Dir) (s : State) :
    channelIdle (dataChannel e) (drainOne e s) = true := by
  cases e
  · exact stopStream_idle .rx s
  · change channelIdle .wr (drainTx s) = true
    rw [drainTx, abortWrite_eq]
    rfl

/-- TEARDOWN stops a stream that is on and does not touch the channel of one that is off
(44_configure_status.md R274). -/
theorem waitKept_teardownOne (d e : Dir) (s : State) : WaitKept d s (teardownOne e s) := by
  by_cases hoff : (s.stream e).state = .notReady
  · rw [teardownOne_of_eq hoff]
    exact (waitKept_upd d e _ s).trans (waitKept_upd d e _ _)
  · rw [teardownOne_of_ne hoff]
    have hstop := waitKept_of_side (sideSame_stopStream e s) (.inl (stopStream_idle e s)) d
    exact hstop.trans ((waitKept_upd d e _ _).trans (waitKept_upd d e _ _))

theorem waitKept_arm (d e : Dir) (h : Handle) (s : State) : WaitKept d s (arm e h s) := by
  rw [arm_eq]
  cases d <;> cases e <;> exact .inr ⟨rfl, rfl⟩

/-! ### The operations -/

/-- STOP, DRAIN, DROP and PREPARE: each target's change spares the other side and ends the wait on
its own, or the command is refused (R180). -/
theorem waitKept_trigger {x : Trigger} {T : List Dir} {f : State → Dir → State} {s t : State}
    (hside : ∀ u e, SideSame e.other u (f u e))
    (hidle : ∀ u e, channelIdle (dataChannel e) (f u e) = true)
    (h : (if allLegal x T s then .next (respond .cmd .ok (T.foldl f s))
      else .next (respond .cmd .invalidState s) : Host.Outcome State Fault Refusal) = .next t)
    (d : Dir) : WaitKept d s t := by
  rcases trigger_cases h with ⟨_, rfl⟩ | rfl
  · have hone : ∀ u e, WaitKept d u (f u e) := fun u e =>
      waitKept_of_side (hside u e) (.inl (hidle u e)) d
    exact (WaitKept.foldl hone T s).trans (waitKept_record d _ _)
  · exact waitKept_record d _ s

theorem waitKept_start {dir : DirSel} {s t : State} (h : execTriggerStart dir s = .next t)
    (d : Dir) : WaitKept d s t := by
  rcases start_cases h with ⟨got, s1, ha, _, rfl⟩ | ⟨s1, ha, rfl⟩ | rfl
  · exact ((allocAll_start ha).change.env.waitKept d).trans <|
      (WaitKept.foldl (fun u p => waitKept_arm d p.1 p.2 u) got s1).trans <|
      (sideSame_periphOn d _).waitKept.trans <|
      (WaitKept.foldl (fun u e => waitKept_upd d e _ u) _ _).trans (waitKept_record d _ _)
  · exact ((allocAll_none ha).env.waitKept d).trans (waitKept_record d _ _)
  · exact waitKept_record d _ s

/-- No event touches a channel (10_state.md R40). -/
theorem waitKept_event {i : Instr} {s t : State} (hb : i.port = .b) (h : exec i s = .next t)
    (d : Dir) : WaitKept d s t := by
  obtain ⟨-, -, -, -, hrd, hrdTimer, hwr, hwrTimer, -⟩ := eventFrame i s t hb h
  cases d
  · exact .inr ⟨by simp only [channelIdle, dataChannel, hrd], hrdTimer⟩
  · exact .inr ⟨by simp only [channelIdle, dataChannel, hwr], hwrTimer⟩

theorem rdPhase_of_busy {s : State} (h : channelIdle .rd s = false) : s.rdPhase = .wait := by
  have hne : s.rdPhase ≠ .idle := of_decide_eq_false h
  cases hp : s.rdPhase
  · exact absurd hp hne
  · rfl

theorem wrPhase_of_busy {s : State} (h : channelIdle .wr s = false) : s.wrPhase = .wait := by
  have hne : s.wrPhase ≠ .idle := of_decide_eq_false h
  cases hp : s.wrPhase
  · exact absurd hp hne
  · rfl

/-- An operation run while a channel waits ends the wait or leaves it as it is; a second READ or
WRITE is held off (30_encoding.md R110). -/
theorem waitKept_exec {d : Dir} {i : Instr} {s t : State}
    (hw : channelIdle (dataChannel d) s = false) (h : exec i s = .next t) : WaitKept d s t := by
  cases i with
  | configure dir w0 w1 w2 w3 w4 =>
    rcases configure_cases h with ⟨_, rfl⟩ | ⟨k, rfl⟩
    · have hone : ∀ u e, WaitKept d u (configureOne e (cfgOfWords w0 w1 w2 w3 w4) u) := fun u e =>
        waitKept_of_side (sideSame_configureOne e _ u) (.inl (configureOne_idle e _ u)) d
      exact (WaitKept.foldl hone _ s).trans (waitKept_record d _ _)
    · exact waitKept_record d _ s
  | triggerStart dir => exact waitKept_start h d
  | triggerStop dir =>
    exact waitKept_trigger (fun u e => sideSame_stopStream e u) (fun u e => stopStream_idle e u) h d
  | triggerDrain dir =>
    exact waitKept_trigger (fun u e => sideSame_drainOne e u) (fun u e => drainOne_idle e u) h d
  | triggerDrop dir =>
    exact waitKept_trigger (fun u e => sideSame_stopStream e u) (fun u e => stopStream_idle e u) h d
  | triggerPrepare dir =>
    exact waitKept_trigger (fun u e => sideSame_prepareOne e u) (fun u e => prepareOne_idle e u) h d
  | status dir =>
    obtain ⟨r, _, rfl⟩ := status_cases h
    exact waitKept_record d _ s
  | read =>
    cases d with
    | rx =>
      cases (execRead_busy (rdPhase_of_busy hw)).symm.trans h
      exact (sideSame_heldOff .rx _ s).waitKept
    | tx => exact (sideSame_read h).waitKept
  | write blk size =>
    cases d with
    | rx => exact (sideSame_write h).waitKept
    | tx =>
      cases (execWrite_busy (wrPhase_of_busy hw) blk size).symm.trans h
      exact (sideSame_heldOff .tx _ s).waitKept
  | teardown =>
    obtain ⟨u, rfl, -, rfl⟩ := teardown_eq h
    have hflags : ∀ u : State, WaitKept d u
        { u with overrun := false, underrun := false, fillerSize := 0 } := fun u => by
      cases d <;> exact .inr ⟨rfl, rfl⟩
    exact (waitKept_teardownOne d .rx s).trans <| (waitKept_teardownOne d .tx _).trans <|
      (hflags _).trans (waitKept_record d _ _)
  | rxDone status => exact waitKept_event rfl h d
  | txDone status => exact waitKept_event rfl h d
  | periphFault flags => exact waitKept_event rfl h d

/-! ### The moves -/

theorem waitKept_word {d : Dir} {m : Stimulus} {s t : State}
    (hw : channelIdle (dataChannel d) s = false)
    (hm : (∃ b, m = .command b) ∨ ∃ ew, m = .event ew) (h : runMove m s = .next t) :
    WaitKept d s t := by
  rcases runWord_cases hm h with ⟨i, u, hu, rfl, -⟩ | ⟨ch, rfl⟩ | rfl
  · have hlog : EnvChange { u with log := s.log ++ byKind (u.log.drop s.log.length) } u := rfl
    exact (waitKept_exec hw hu).trans (hlog.waitKept d)
  · exact waitKept_record d _ s
  · exact .refl d _

theorem waitKept_rdIdle (d : Dir) (s : State) : WaitKept d s (rdIdle s) := by
  cases d
  · exact .inl rfl
  · exact .inr ⟨rfl, rfl⟩

theorem waitKept_wrIdle (d : Dir) (s : State) : WaitKept d s (wrIdle s) := by
  cases d
  · exact .inr ⟨rfl, rfl⟩
  · exact .inl rfl

theorem waitKept_appTakes (d : Dir) (h : Handle) (s : State) : WaitKept d s (appTakes h s) :=
  have henv : EnvChange (appTakes h s) s := rfl
  henv.waitKept d

theorem waitKept_appGives (d : Dir) (h : Handle) (s : State) : WaitKept d s (appGives h s) :=
  have henv : EnvChange (appGives h s) s := rfl
  henv.waitKept d

theorem waitKept_rdGrant (d : Dir) (s : State) : WaitKept d s (rdGrant s) := by
  by_cases he : s.rx.head = s.rx.tail
  · rw [rdGrant_of_eq he]
    exact (waitKept_upd d .rx _ s).trans <| (waitKept_rdIdle d _).trans (waitKept_record d _ _)
  · rw [rdGrant_of_ne he]
    exact (waitKept_upd d .rx _ s).trans <| (waitKept_upd d .rx _ _).trans <|
      (waitKept_rdIdle d _).trans <| (waitKept_appTakes d _ _).trans (waitKept_record d _ _)

theorem waitKept_wrGrant (d : Dir) (s : State) : WaitKept d s (wrGrant s) := by
  rcases wrGrant_cases s with ⟨_, he⟩ | ⟨_, he⟩ <;> rw [he]
  · exact (waitKept_upd d .tx _ s).trans <| (waitKept_upd d .tx _ _).trans <|
      (waitKept_appGives d _ _).trans <| (waitKept_wrIdle d _).trans (waitKept_record d _ _)
  · exact (waitKept_upd d .tx _ s).trans <| (waitKept_wrIdle d _).trans (waitKept_record d _ _)

theorem waitKept_rdTimeout (d : Dir) (s : State) : WaitKept d s (rdTimeout s) := by
  cases d
  · exact .inl rfl
  · exact .inr ⟨rfl, rfl⟩

theorem waitKept_wrTimeout (d : Dir) (s : State) : WaitKept d s (wrTimeout s) := by
  cases d
  · exact .inr ⟨rfl, rfl⟩
  · exact .inl rfl

theorem hwReset_idle (d : Dir) (s : State) :
    channelIdle (dataChannel d) (hwReset s) = true := by
  cases d <;> rfl

/-- Every move but TICK ends a wait or leaves it as it is. -/
theorem waitKept_runMove {d : Dir} {m : Stimulus} {s t : State}
    (hw : channelIdle (dataChannel d) s = false) (hm : m ≠ .tick) (h : runMove m s = .next t) :
    WaitKept d s t := by
  cases m with
  | command b => exact waitKept_word hw (.inl ⟨b, rfl⟩) h
  | event ew => exact waitKept_word hw (.inr ⟨ew, rfl⟩) h
  | rdGrant => cases h; exact waitKept_rdGrant d s
  | rdTimeout => cases h; exact waitKept_rdTimeout d s
  | wrGrant => cases h; exact waitKept_wrGrant d s
  | wrTimeout => cases h; exact waitKept_wrTimeout d s
  | tick => exact absurd rfl hm
  | appAlloc b => cases h; exact waitKept_appTakes d b s
  | appFree b => cases h; exact waitKept_appGives d b s
  | sync e j => cases h; exact waitKept_upd d e _ s
  | reset => cases h; exact .inl (hwReset_idle d s)

/-! ### Runs -/

/-- A TICK takes one off a timer at most (R251). -/
theorem le_tickTimer (p : Phase) (t : Ticks) : t.toNat ≤ (tickTimer p t).toNat + 1 := by
  unfold tickTimer
  split
  · bv_omega
  · exact Nat.le_succ _

/-- A move of a wait that goes on takes nothing off its timer, but for TICK, which takes one. -/
theorem waitTimer_runMove {d : Dir} {m : Stimulus} {s t : State}
    (hw : channelIdle (dataChannel d) s = false) (hw' : channelIdle (dataChannel d) t = false)
    (h : runMove m s = .next t) :
    (waitTimer d s).toNat ≤ (waitTimer d t).toNat + [m].count .tick := by
  by_cases hm : m = .tick
  · subst hm
    cases h
    cases d
    · exact le_tickTimer s.rdPhase s.rdTimer
    · exact le_tickTimer s.wrPhase s.wrTimer
  · rcases waitKept_runMove hw hm h with hidle | ⟨-, htimer⟩
    · rw [hw'] at hidle
      cases hidle
    · rw [htimer]
      exact Nat.le_add_right _ _

/-- All that a run of one move and more is: the move was taken while the channel waited. -/
theorem waitedRun_cons {ch : Channel} {m : Stimulus} {l : List Stimulus} {s u : State}
    (h : waitedRun ch (m :: l) s = some u) :
    channelIdle ch s = false ∧ ∃ t, runMove m s = .next t ∧ waitedRun ch l t = some u := by
  unfold waitedRun at h
  split at h
  · rename_i hm
    obtain ⟨hw, -⟩ := hm
    split at h
    · exact ⟨hw, _, by assumption, h⟩
    · cases h
    · cases h
  · cases h

/-- A run that leaves the channel waiting found it waiting. -/
theorem waitedRun_waits {ch : Channel} {l : List Stimulus} {s u : State}
    (h : waitedRun ch l s = some u) (hu : channelIdle ch u = false) :
    channelIdle ch s = false := by
  cases l with
  | nil =>
    cases h
    exact hu
  | cons m l => exact (waitedRun_cons h).1

/-- A wait that lasts loses no more of its timer than there are TICKs, by induction on the run. -/
theorem waitTimer_waitedRun {d : Dir} {l : List Stimulus} {s u : State}
    (h : waitedRun (dataChannel d) l s = some u)
    (hu : channelIdle (dataChannel d) u = false) :
    (waitTimer d s).toNat ≤ (waitTimer d u).toNat + l.count .tick := by
  induction l generalizing s with
  | nil =>
    cases h
    exact Nat.le_add_right _ _
  | cons m l ih =>
    obtain ⟨hw, t, hm, hrun⟩ := waitedRun_cons h
    have hhead := waitTimer_runMove hw (waitedRun_waits hrun hu) hm
    have htail := ih hrun
    have hcount : (m :: l).count .tick = [m].count .tick + l.count .tick :=
      List.count_append (l₁ := [m])
    omega

/-- Settles O27: the accept step loads the timer, and the timeout step needs it at 0. -/
theorem noTimeoutBeforeTicks : Obligations.NoTimeoutBeforeTicks := by
  unfold Obligations.NoTimeoutBeforeTicks
  refine fun s => ⟨fun hidle hready herror => ?_, fun blk size hidle hst hgood => ?_⟩
  · refine ⟨_, execRead_accepted hidle (not_or.2 ⟨hready, herror⟩), fun l u hrun he => ?_⟩
    obtain ⟨hwait, htimer, -⟩ := enabled_rdTimeout_iff.1 he
    have hle := waitTimer_waitedRun (d := .rx) hrun (by simp [channelIdle, dataChannel, hwait])
    simpa [waitTimer, htimer] using hle
  · refine ⟨_, execWrite_accepted hidle hst hgood, fun l u hrun he => ?_⟩
    obtain ⟨hwait, htimer, -⟩ := enabled_wrTimeout_iff.1 he
    have hle := waitTimer_waitedRun (d := .tx) hrun (by simp [channelIdle, dataChannel, hwait])
    simpa [waitTimer, htimer] using hle

end Sys2Proof.Machine
end

section
/-! The configuration record (30_encoding.md R105, R106): its fields as bits of its words, and the
five checks of a record (44_configure_status.md R272). -/

namespace Sys2Proof

theorem bits_toNat (n lo : Nat) (w : Word) : (bits n lo w).toNat = w.toNat / 2 ^ lo % 2 ^ n := by
  rw [bits, BitVec.extractLsb'_toNat, Nat.shiftRight_eq_div_pow]

/-- A field that reaches the top of the word needs no reduction. -/
theorem bits_top_toNat {n lo : Nat} (h : lo + n = 32) (w : Word) :
    (bits n lo w).toNat = w.toNat / 2 ^ lo := by
  have hlt : w.toNat / 2 ^ lo < 2 ^ n := by
    rw [Nat.div_lt_iff_lt_mul (Nat.two_pow_pos lo), ← Nat.pow_add, Nat.add_comm, h]
    exact w.isLt
  rw [bits_toNat, Nat.mod_eq_of_lt hlt]

theorem bits_eq_ofNat (n lo : Nat) (w : Word) :
    bits n lo w = BitVec.ofNat n (w.toNat / 2 ^ lo) :=
  BitVec.eq_of_toNat_eq (bits_toNat n lo w)

theorem bits_eq_iff {n lo k : Nat} (hk : k < 2 ^ n) (w : Word) :
    bits n lo w = BitVec.ofNat n k ↔ w.toNat / 2 ^ lo % 2 ^ n = k := by
  rw [← BitVec.toNat_inj, bits_toNat, BitVec.toNat_ofNat, Nat.mod_eq_of_lt hk]

theorem bits_top_eq_zero_iff {n lo : Nat} (h : lo + n = 32) (w : Word) :
    bits n lo w = 0#n ↔ w.toNat / 2 ^ lo = 0 := by
  rw [← BitVec.toNat_inj, bits_top_toNat h, BitVec.toNat_ofNat, Nat.zero_mod]

theorem bits_getLsbD {n i : Nat} (hi : i < n) (lo : Nat) (w : Word) :
    (bits n lo w).getLsbD i = w.getLsbD (lo + i) := by
  rw [bits, BitVec.getLsbD_extractLsb', decide_eq_true hi, Bool.true_and]

theorem getLsbD_iff (w : Word) (i : Nat) : w.getLsbD i = true ↔ w.toNat / 2 ^ i % 2 = 1 := by
  rw [BitVec.getLsbD, Nat.testBit_eq_decide_div_mod_eq, decide_eq_true_iff]

end Sys2Proof

namespace Sys2Proof.Machine

/-- The five checks of R272, each as a proposition. -/
theorem validRecord_iff {p : Params} {T : List Dir} {w1 w3 : Word} {c : Cfg} :
    validRecord p T w1 w3 c = true ↔
      (c.wordSize = 16#6 ∨ c.wordSize = 24#6 ∨ c.wordSize = 32#6) ∧ c.format ∈ p.formatLegal ∧
      (bits 2 6 w1 = 0#2 ∧ bits 16 16 w3 = 0#16 ∧ bits 4 28 w1 = 0#4) ∧ c.blockSize ≠ 0#32 ∧
      (.tx ∈ T → c.repeatOnUnderrun = true → p.hasFiller = true) := by
  have hfiller : (!(T.contains .tx && c.repeatOnUnderrun) || p.hasFiller) = true ↔
      (.tx ∈ T → c.repeatOnUnderrun = true → p.hasFiller = true) := by
    rw [← and_imp, ← List.contains_iff_mem, ← Bool.and_eq_true]
    cases T.contains .tx && c.repeatOnUnderrun <;> simp
  simp only [validRecord, reservedClear, Bool.and_eq_true, decide_eq_true_iff,
    List.contains_iff_mem, hfiller, and_assoc]

/-- Settles O40: each check of `validRecord` on a field is one on the bits of the field. -/
theorem recordChecks : Obligations.RecordChecks := by
  unfold Obligations.RecordChecks
  intro p T w0 w1 w2 w3 w4
  have hsize : ∀ {k : Nat}, k < 2 ^ 6 → (bits 6 0 w1 = BitVec.ofNat 6 k ↔ w1.toNat % 64 = k) :=
    fun hk => by rw [bits_eq_iff hk, Nat.pow_zero, Nat.div_one]; rfl
  have hrepeat : (cfgOfWords w0 w1 w2 w3 w4).repeatOnUnderrun = true ↔
      w1.toNat / 2 ^ 27 % 2 = 1 :=
    (Bool.eq_iff_iff.1 (bits_getLsbD (by decide) 24 w1)).trans (getLsbD_iff w1 27)
  rw [validRecord_iff, hrepeat]
  simp only [cfgOfWords]
  rw [hsize (by decide), hsize (by decide), hsize (by decide), bits_eq_ofNat 8 16,
    bits_eq_iff (by decide : 0 < 2 ^ 2), bits_top_eq_zero_iff (by decide),
    bits_top_eq_zero_iff (by decide)]
  simp only [and_assoc]
  rfl

end Sys2Proof.Machine
end

section
/-! CONFIGURE (44_configure_status.md R271, R275): when it is refused, and what it leaves of the
streams it addresses. -/

namespace Sys2Proof.Machine

/-! ### The checks -/

theorem configurable_iff {q : StreamState} :
    configurable q = true ↔ q = .notReady ∨ q = .ready := decide_eq_true_iff

theorem configurable_eq_false_iff {q : StreamState} :
    configurable q = false ↔ q = .running ∨ q = .stopping ∨ q = .error := by
  cases q <;> decide

/-- The state is checked first (R275). -/
theorem exec_configure_badState {dir : DirSel} {s : State}
    (h : ∃ d ∈ addressed dir, configurable (s.stream d).state = false) (w0 w1 w2 w3 w4 : Word) :
    exec (.configure dir w0 w1 w2 w3 w4) s =
      .next { s with log := s.log ++ [answered .cmd .invalidState] } := by
  have hall : ¬ ((addressed dir).all fun d => configurable (s.stream d).state) = true := by
    simpa using h
  exact if_neg hall

/-- With the addressed streams NOT_READY or READY, the record is checked. -/
theorem exec_configure_record {dir : DirSel} {s : State}
    (h : ∀ d ∈ addressed dir, configurable (s.stream d).state = true) (w0 w1 w2 w3 w4 : Word) :
    exec (.configure dir w0 w1 w2 w3 w4) s =
      if w0 ≠ 0#32 ∧
          validRecord s.par (addressed dir) w1 w3 (cfgOfWords w0 w1 w2 w3 w4) = false then
        .next (respond .cmd .invalidArgument s)
      else .next (respond .cmd .ok
        ((addressed dir).foldl (fun t d => configureOne d (cfgOfWords w0 w1 w2 w3 w4) t) s)) :=
  if_pos (List.all_eq_true.2 h)

/-- A record that enables and fails the checks is refused (R271). -/
theorem exec_configure_badRecord {dir : DirSel} {w0 w1 w2 w3 w4 : Word} {s : State}
    (h : ∀ d ∈ addressed dir, configurable (s.stream d).state = true) (h0 : w0 ≠ 0#32)
    (hbad : validRecord s.par (addressed dir) w1 w3 (cfgOfWords w0 w1 w2 w3 w4) = false) :
    exec (.configure dir w0 w1 w2 w3 w4) s =
      .next { s with log := s.log ++ [answered .cmd .invalidArgument] } :=
  (exec_configure_record h ..).trans (if_pos ⟨h0, hbad⟩)

/-- A record that disables or passes the checks is taken by each addressed stream (R271). -/
theorem exec_configure_ok {dir : DirSel} {w0 w1 w2 w3 w4 : Word} {s : State}
    (h : ∀ d ∈ addressed dir, configurable (s.stream d).state = true)
    (hrec : w0 = 0#32 ∨
      validRecord s.par (addressed dir) w1 w3 (cfgOfWords w0 w1 w2 w3 w4) = true) :
    exec (.configure dir w0 w1 w2 w3 w4) s = .next (respond .cmd .ok
      ((addressed dir).foldl (fun t d => configureOne d (cfgOfWords w0 w1 w2 w3 w4) t) s)) := by
  refine (exec_configure_record h ..).trans (if_neg ?_)
  rintro ⟨h0, hbad⟩
  rcases hrec with hz | hok
  · exact h0 hz
  · exact Bool.false_ne_true (hbad.symm.trans hok)

/-- Settles O39: the two checks of CONFIGURE, in their order. -/
theorem configureRefuses : Obligations.ConfigureRefuses := by
  unfold Obligations.ConfigureRefuses
  refine fun dir w0 w1 w2 w3 w4 s => ⟨fun ⟨d, hd, hst⟩ => ?_, fun hst h0 hbad => ?_⟩
  · exact exec_configure_badState ⟨d, hd, configurable_eq_false_iff.2 hst⟩ ..
  · exact exec_configure_badRecord (fun d hd => configurable_iff.2 (hst d hd)) h0 hbad

/-! ### The fields of the record -/

theorem cfgOfWords_toNat (w0 w1 w2 w3 w4 : Word) :
    (cfgOfWords w0 w1 w2 w3 w4).wordSize.toNat = w1.toNat % 2 ^ 6 ∧
    (cfgOfWords w0 w1 w2 w3 w4).channelCount.toNat = w1.toNat / 2 ^ 8 % 2 ^ 8 ∧
    (cfgOfWords w0 w1 w2 w3 w4).format.toNat = w1.toNat / 2 ^ 16 % 2 ^ 8 ∧
    (cfgOfWords w0 w1 w2 w3 w4).options.toNat = w1.toNat / 2 ^ 24 ∧
    (cfgOfWords w0 w1 w2 w3 w4).blockCount.toNat = w3.toNat % 2 ^ 16 := by
  have hlow : ∀ n (w : Word), (bits n 0 w).toNat = w.toNat % 2 ^ n := fun n w => by
    rw [bits_toNat, Nat.pow_zero, Nat.div_one]
  exact ⟨hlow 6 w1, bits_toNat 8 8 w1, bits_toNat 8 16 w1, bits_top_toNat (by decide) w1,
    hlow 16 w3⟩

/-- The policy bits are bits of W1 (R106). -/
theorem cfgOfWords_options_getLsbD {i : Nat} (hi : i < 8) (w0 w1 w2 w3 w4 : Word) :
    (cfgOfWords w0 w1 w2 w3 w4).options.getLsbD i = w1.getLsbD (24 + i) :=
  bits_getLsbD hi 24 w1

/-! ### What CONFIGURE leaves -/

/-- What CONFIGURE stores of the record `c`: nothing of one that disables (R271). -/
def storedCfg (c : Cfg) : Cfg := if c.freq = 0#32 then Cfg.zero else c

/-- A stream that CONFIGURE gave the record `c`. -/
def Stream.configuredWith (c : Cfg) (t : Stream) : Stream :=
  { t.emptied with state := configured c, cfg := storedCfg c }

theorem storeCfg_eq (d : Dir) (c : Cfg) (s : State) :
    storeCfg d c s = s.upd d fun t => { t with state := configured c, cfg := storedCfg c } := by
  unfold storeCfg configured storedCfg
  split <;> cases d <;> rfl

/-- What CONFIGURE leaves of one stream (R271). -/
theorem configureOne_stored {d : Dir} {s : State} (h : StreamBounds d s) (c : Cfg) :
    configureOne d c s =
      { (freedChannels [d] s).upd d (Stream.configuredWith c) with
        overrun := if d = .rx then false else s.overrun,
        underrun := if d = .tx then false else s.underrun,
        log := s.log ++ droppedEvents [d] s } := by
  rw [configureOne_eq, prepareOne_eq h, storeCfg_eq]
  cases d <;> rfl

theorem configureOne_par (d : Dir) (c : Cfg) (s : State) : (configureOne d c s).par = s.par :=
  (commandKeeps_configureOne d c s).par

/-- The frees and the answer of a dropped queue depend on the stream's side alone. -/
theorem droppedEvents_of_side {d : Dir} {s t : State} (hp : t.par = s.par) (h : SideSame d s t) :
    droppedEvents [d] t = droppedEvents [d] s := by
  simp only [droppedEvents, queued_congr hp h.stream, waitEvents_of_side h,
    List.flatMap_singleton]

/-- What CONFIGURE of RX and then of TX leaves (R271). -/
theorem configureOne_both {s : State} (hrx : StreamBounds .rx s) (htx : StreamBounds .tx s)
    (c : Cfg) :
    configureOne .tx c (configureOne .rx c s) =
      { freedChannels [.rx, .tx] s with
        rx := s.rx.configuredWith c, tx := s.tx.configuredWith c, overrun := false,
        underrun := false, log := s.log ++ droppedEvents [.rx, .tx] s } := by
  have hside : SideSame .tx s (configureOne .rx c s) := sideSame_configureOne .rx c s
  have hpar := configureOne_par .rx c s
  rw [configureOne_stored (bounds_congr hpar hside.stream htx), droppedEvents_of_side hpar hside,
    configureOne_stored hrx]
  simp [freedChannels, droppedEvents, State.upd]

/-- Settles O38: the fields by the bits they occupy; one addressed stream, or RX and then TX. -/
theorem configureStores : Obligations.ConfigureStores := by
  unfold Obligations.ConfigureStores
  constructor
  · rintro w0 w1 w2 w3 w4 _ rfl
    obtain ⟨hsize, hchannels, hformat, hoptions, hcount⟩ := cfgOfWords_toNat w0 w1 w2 w3 w4
    have hbit : ∀ {i : Nat}, i < 8 →
        (cfgOfWords w0 w1 w2 w3 w4).options.getLsbD i = w1.getLsbD (24 + i) :=
      fun hi => cfgOfWords_options_getLsbD hi ..
    exact ⟨rfl, hsize, hchannels, hformat, hoptions, rfl, hcount, rfl, hbit (by decide),
      hbit (by decide), hbit (by decide), hbit (by decide)⟩
  · rintro dir w0 w1 w2 w3 w4 s hrx htx hst hrec _ rfl
    rw [exec_configure_ok (fun d hd => configurable_iff.2 (hst d hd)) hrec]
    cases dir with
    | rx =>
      rw [addressed, foldl_one, configureOne_stored hrx]
      rfl
    | tx =>
      rw [addressed, foldl_one, configureOne_stored htx]
      rfl
    | both =>
      rw [addressed, foldl_both, configureOne_both hrx htx]
      rfl

end Sys2Proof.Machine
end

section
/-! STATUS (44_configure_status.md R273) and the fields of its word (30_encoding.md R114). -/

namespace Sys2Proof.Machine

/-- STATUS of a stream has one word, and no payload (R104). -/
theorem decodeCommand_status_iff {b : Bundle} (d : Dir) :
    decodeCommand b = .ok (.status (sel d)) ↔
      b.cw = if d = .rx then 0x30000000#32 else 0x34000000#32 := by
  have hword : (encode (.status (sel d))).cw =
      if d = .rx then 0x30000000#32 else 0x34000000#32 := by
    cases d <;> rfl
  have hacc : dirAccepted 3#4 (sel d) = true := by cases d <;> rfl
  have hplain : plainOfOp 3#4 (sel d) b = .status (sel d) := rfl
  rw [← hword, ← hplain]
  exact ⟨fun h => (encode_decodeCommand h).2.2.symm,
    decodeCommand_plain (by decide) (by decide) hacc⟩

theorem exec_status (d : Dir) (s : State) :
    exec (.status (sel d)) s = .next (answerStatus (statusWord d s) s) := by
  cases d <;> rfl

theorem lossFlag_eq (d : Dir) (s : State) :
    lossFlag d s = if d = .rx then s.overrun else s.underrun := by
  cases d <;> rfl

theorem lastFlag_eq (d : Dir) (s : State) :
    lastFlag d s = if d = .tx then s.lastBlockFlag else false := by
  cases d <;> rfl

theorem sat8_toNat (v : Nat) : (sat8 v).toNat = min v 255 :=
  (BitVec.toNat_ofNat _ _).trans (Nat.mod_eq_of_lt (by omega))

open BitVec (ofBool) in
/-- A word laid out as R114 says has each of its fields in its place: a field is what is left when
those below it are taken off. -/
theorem statusLayout (occ8 view8 : BitVec 8) (fullDuplex periph last loss armed : Bool)
    (cause state : BitVec 3) {w : Word}
    (hw : w = occ8 ++ view8 ++ 0#5 ++ ofBool fullDuplex ++ ofBool periph ++ cause ++ ofBool last ++
      ofBool loss ++ ofBool armed ++ state) :
    (w.extractLsb' 0 3 = state ∧ w.extractLsb' 6 3 = cause ∧ w.extractLsb' 11 5 = 0#5 ∧
      w.extractLsb' 16 8 = view8 ∧ w.extractLsb' 24 8 = occ8) ∧
    w.getLsbD 3 = armed ∧ w.getLsbD 4 = loss ∧ w.getLsbD 5 = last ∧ w.getLsbD 9 = periph ∧
      w.getLsbD 10 = fullDuplex := by
  subst hw
  constructor
  · refine ⟨BitVec.extractLsb'_append_eq_right, ?_, ?_, ?_, ?_⟩ <;>
      simp (disch := decide) only [BitVec.extractLsb'_append_eq_of_le]
    · exact BitVec.extractLsb'_append_eq_right
    · exact BitVec.extractLsb'_append_eq_right
    · exact BitVec.extractLsb'_append_eq_right
    · exact BitVec.extractLsb'_eq_self
  · simp only [BitVec.getLsbD_append]
    simp

/-- Settles O41: the decoder's words of STATUS, its one answer, and each field of a word that is
made of its fields. -/
theorem statusAnswers : Obligations.StatusAnswers := by
  unfold Obligations.StatusAnswers
  intro d s
  obtain ⟨⟨hstate, hcause, hzero, hview, hocc⟩, harmed, hloss, hlast, hperiph, hduplex⟩ :=
    statusLayout (sat8 (occ d s)) (sat8 (flowView d s)) s.fullDuplex s.periphEnabled
      (lastFlag d s) (lossFlag d s) (s.stream d).armed (s.stream d).faultCause.code
      (s.stream d).state.code (w := statusWord d s) rfl
  exact ⟨fun b => decodeCommand_status_iff d, exec_status d s, hstate, harmed,
    hloss.trans (lossFlag_eq d s), hlast.trans (lastFlag_eq d s), hcause, hperiph, hduplex, hzero,
    by rw [hview, sat8_toNat], by rw [hocc, sat8_toNat]⟩

end Sys2Proof.Machine
end

section
/-! TEARDOWN (44_configure_status.md R274): what it leaves of one stream, whether that is on or not,
and of both. -/

namespace Sys2Proof.Machine

/-- A stream with its reset values, but for the slots and the indices, which agree. -/
def Stream.tornDown (t : Stream) : Stream :=
  { Stream.reset with slots := t.slots, head := t.head, tail := t.head }

/-- What TEARDOWN writes to the history for stream `d`, alone: nothing if the stream is off. -/
def teardownEvents (d : Dir) (s : State) : List Event :=
  if (s.stream d).state = .notReady then []
  else (disableTrace d s).map .call ++ droppedEvents [d] s

/-- What TEARDOWN of stream `d` leaves. -/
def tornDown (d : Dir) (s : State) : State :=
  { (freedChannels [d] s).upd d Stream.tornDown with
    periphEnabled := (s.stream d.other).armed && s.periphEnabled,
    lastBlockFlag := if d = .tx then false else s.lastBlockFlag,
    log := s.log ++ teardownEvents d s }

/-- Nobody waits on a stream in NOT_READY (R41, 43_read_write.md R244, R249). -/
theorem Inv.freedChannels_of_off {d : Dir} {s : State} (i : Inv s)
    (h : (s.stream d).state = .notReady) : freedChannels [d] s = s := by
  cases d with
  | rx =>
    have hidle : s.rdPhase = .idle := by
      cases hp : s.rdPhase
      · rfl
      · exact absurd h (i.rx.wait hp)
    simp only [freedChannels, List.mem_singleton, reduceCtorEq, if_true, if_false, hidle, and_false,
      false_and]
    rw [← hidle]
  | tx =>
    have hidle : s.wrPhase = .idle := by
      cases hp : s.wrPhase
      · rfl
      · obtain ⟨-, hon, -⟩ := i.tx.wait hp
        exact absurd h hon
    simp only [freedChannels, List.mem_singleton, reduceCtorEq, if_true, if_false, hidle, and_false,
      false_and]
    rw [← hidle]

/-- A stream in NOT_READY has its reset values but for its configuration and cause, its slots and its
indices, which agree (R41). -/
theorem StreamInv.tornDown_of_off {d : Dir} {s : State} (i : StreamInv d s)
    (h : (s.stream d).state = .notReady) :
    { s.stream d with cfg := Cfg.zero, faultCause := .none } = (s.stream d).tornDown := by
  obtain ⟨hocc, harm, hgive, htake, hview⟩ := i.off h
  have hactive := i.inactive harm
  have htail := (occ_eq_zero_iff i.bounds).1 hocc
  simp [Stream.tornDown, Stream.reset, h, harm, hgive, htake, hview, hactive, htail]

theorem Inv.last_of_off {s : State} (i : Inv s) (h : s.tx.state = .notReady) :
    s.lastBlockFlag = false := by
  by_contra hl
  simp [i.tx.last (by simpa using hl)] at h

/-- A stream that is off has only its configuration and cause to clear; one that is on is stopped
(R274). -/
theorem teardownOne_eq (d : Dir) {s : State} (i : Inv s) : teardownOne d s = tornDown d s := by
  by_cases h : (s.stream d).state = .notReady
  · obtain ⟨-, harm, -⟩ := (i.streamInv d).off h
    have hupd : setCause d .none (setCfg d Cfg.zero s) = s.upd d Stream.tornDown := by
      cases d
      · exact congrArg (fun t => { s with rx := t }) (i.rx.stream.tornDown_of_off h)
      · exact congrArg (fun t => { s with tx := t }) (i.tx.stream.tornDown_of_off h)
    have hlast : (if d = .tx then false else s.lastBlockFlag) = s.lastBlockFlag := by
      cases d
      · rfl
      · exact (i.last_of_off h).symm
    rw [teardownOne_of_eq h, hupd, tornDown, teardownEvents, if_pos h, i.freedChannels_of_off h,
      ← i.periph_eq harm, hlast, List.append_nil]
    cases d <;> rfl
  · rw [teardownOne_of_ne h, stopStream_eq (i.bounds d), tornDown, teardownEvents, if_neg h,
      List.append_assoc]
    cases d <;> rfl

/-- After TEARDOWN of RX, `Disable(TX)` switches the peripheral off (R172). -/
theorem teardownEvents_tx {s t : State} (hp : t.par = s.par) (hside : SideSame .tx s t)
    (harm : t.rx.armed = false) :
    teardownEvents .tx t = if s.tx.state = .notReady then []
      else (disarmTrace .tx s ++ [Call.periphDisable]).map .call ++ droppedEvents [.tx] s := by
  have hstream : t.tx = s.tx := hside.stream
  rw [teardownEvents, droppedEvents_of_side hp hside, disableTrace,
    disarmTrace_congr hp hside.stream]
  simp only [stream_tx, other_tx, stream_rx, hstream, harm, if_true]

/-- What TEARDOWN of RX and then of TX leaves (R274). -/
theorem teardownOne_both {s : State} (i : Inv s) :
    teardownOne .tx (teardownOne .rx s) =
      { freedChannels [.rx, .tx] s with
        rx := s.rx.tornDown, tx := s.tx.tornDown, periphEnabled := false, lastBlockFlag := false,
        log := s.log ++ teardownEvents .rx s ++
          (if s.tx.state = .notReady then []
            else (disarmTrace .tx s ++ [Call.periphDisable]).map .call ++
              droppedEvents [.tx] s) } := by
  have hside : SideSame .tx s (teardownOne .rx s) := sideSame_teardownOne .rx s
  have hpar : (teardownOne .rx s).par = s.par := (commandKeeps_teardownOne .rx s).par
  have hrx := teardownOne_eq .rx i
  have harm : (teardownOne .rx s).rx.armed = false := by rw [hrx]; rfl
  rw [teardownOne_eq .tx (inv_teardownOne .rx i), tornDown,
    teardownEvents_tx hpar hside harm, hrx]
  simp [tornDown, freedChannels, State.upd, Stream.tornDown, Stream.reset]

/-- With every wait ended both channels have their reset values (R37, R38, R152). -/
theorem Inv.freedChannels_both {s : State} (i : Inv s) :
    freedChannels [.rx, .tx] s = { s with
      rdPhase := .idle, rdTimer := 0, wrPhase := .idle, wrTimer := 0, wrH := NULL, wrSz := 0 } := by
  obtain ⟨hwrTimer, hwrH, hwrSz⟩ := i.tx.channel_reset
  simp only [freedChannels, List.mem_cons, true_or, or_true, true_and, if_true,
    i.rx.timer_reset, hwrTimer, hwrH, hwrSz]
  rfl

/-- Settles O42: each stream in turn; what the invariants say of the channels and the strap makes
the rest the reset value. -/
theorem teardownResets : Obligations.TeardownResets := by
  unfold Obligations.TeardownResets
  intro s i
  change execTeardown s = _
  rw [execTeardown, teardownOne_both i, i.freedChannels_both]
  simp only [respond_eq, State.resetWith, i.duplex, teardownEvents]
  rfl

end Sys2Proof.Machine
end

section
/-! The stored configurations (44_configure_status.md R271, R272, R274): only CONFIGURE, TEARDOWN and
the reset input write one or move a stream into or out of NOT_READY, and what they store is valid. -/

namespace Sys2Proof.Machine

/-! ### Configurations that do not change -/

/-- Both streams hold the configuration they held. -/
def CfgSame (s t : State) : Prop := ∀ d, (t.stream d).cfg = (s.stream d).cfg

theorem CfgSame.refl (s : State) : CfgSame s s := fun _ => rfl

theorem CfgSame.trans {s t u : State} (h : CfgSame s t) (g : CfgSame t u) : CfgSame s u :=
  fun d => (g d).trans (h d)

theorem CfgSame.foldl {α : Type} {f : State → α → State} (h : ∀ u a, CfgSame u (f u a))
    (l : List α) (s : State) : CfgSame s (l.foldl f s) := by
  induction l generalizing s with
  | nil => exact .refl s
  | cons a l ih => exact (h s a).trans (ih _)

theorem CfgSame.of_streams {s t : State} (hrx : t.rx.cfg = s.rx.cfg) (htx : t.tx.cfg = s.tx.cfg) :
    CfgSame s t := fun d => by cases d <;> assumption

theorem CfgSame.of_transfer {s t : State} (h : TransferChange t s) : CfgSame s t := by
  rw [h.eq]
  exact .of_streams rfl rfl

theorem cfgSame_record (e : Event) (s : State) : CfgSame s (record e s) :=
  .of_transfer (transfer_record e s)

theorem cfgSame_dropQueue (d : Dir) (s : State) : CfgSame s (dropQueue d s) := by
  obtain ⟨k, l, he⟩ := dropQueue_tail d s
  rw [he]
  cases d <;> exact .of_streams rfl rfl

theorem cfgSame_flowReset (d : Dir) (s : State) : CfgSame s (flowReset d s) := by
  cases d
  · rw [flowReset_rx]
    exact .of_streams rfl rfl
  · rw [flowReset_tx]
    exact .of_streams rfl rfl

theorem cfgSame_setCause (d : Dir) (c : FaultCause) (s : State) : CfgSame s (setCause d c s) := by
  cases d <;> exact .of_streams rfl rfl

theorem cfgSame_setState (d : Dir) (q : StreamState) (s : State) : CfgSame s (setState d q s) :=
  .of_transfer (transfer_setState d q s)

theorem cfgSame_clearLoss (d : Dir) (s : State) : CfgSame s (clearLoss d s) :=
  fun e => by rw [clearLoss_stream]

theorem cfgSame_stopStream (d : Dir) (s : State) : CfgSame s (stopStream d s) :=
  (CfgSame.of_transfer (transfer_disable d s)).trans <| (cfgSame_dropQueue d _).trans <|
    (cfgSame_flowReset d _).trans <| (cfgSame_setCause d _ _).trans (cfgSame_setState d _ _)

theorem cfgSame_prepareOne (d : Dir) (s : State) : CfgSame s (prepareOne d s) :=
  (cfgSame_dropQueue d s).trans <| (cfgSame_flowReset d _).trans <|
    (cfgSame_setCause d _ _).trans <| (cfgSame_clearLoss d _).trans (cfgSame_setState d _ _)

theorem cfgSame_drainOne (d : Dir) (s : State) : CfgSame s (drainOne d s) := by
  cases d
  · exact cfgSame_stopStream .rx s
  · rw [drainOne, drainTx_eq]
    exact .of_streams rfl rfl

theorem cfgSame_trigger {x : Trigger} {T : List Dir} {f : State → Dir → State} {s t : State}
    (hf : ∀ u d, CfgSame u (f u d))
    (h : (if allLegal x T s then .next (respond .cmd .ok (T.foldl f s))
      else .next (respond .cmd .invalidState s) : Host.Outcome State Fault Refusal) = .next t) :
    CfgSame s t := by
  rcases trigger_cases h with ⟨_, rfl⟩ | rfl
  · exact (CfgSame.foldl hf T s).trans (cfgSame_record _ _)
  · exact cfgSame_record _ s

theorem cfgSame_start {dir : DirSel} {s t : State} (h : execTriggerStart dir s = .next t) :
    CfgSame s t := by
  intro d
  rcases start_streams h with ⟨-, hs, -⟩ | ⟨hsame, -⟩ | rfl
  · by_cases hd : d ∈ targets dir s
    · obtain ⟨k, hk⟩ := hs.target d hd
      rw [hk]
      rfl
    · rw [hs.other d hd]
  · rw [hsame]
  · exact cfgSame_record _ s d

/-- The operations that write a configuration (10_state.md R40, R33; log 21). -/
def writesCfg : Instr → Prop
  | .configure .. => True
  | .teardown => True
  | _ => False

theorem cfgSame_exec {i : Instr} {s t : State} (hi : ¬ writesCfg i) (h : exec i s = .next t) :
    CfgSame s t := by
  cases i with
  | configure => exact absurd trivial hi
  | triggerStart dir => exact cfgSame_start h
  | triggerStop dir => exact cfgSame_trigger (fun u d => cfgSame_stopStream d u) h
  | triggerDrain dir => exact cfgSame_trigger (fun u d => cfgSame_drainOne d u) h
  | triggerDrop dir => exact cfgSame_trigger (fun u d => cfgSame_stopStream d u) h
  | triggerPrepare dir => exact cfgSame_trigger (fun u d => cfgSame_prepareOne d u) h
  | status dir =>
    obtain ⟨r, _, rfl⟩ := status_cases h
    exact cfgSame_record _ s
  | read => rcases read_cases h with rfl | ⟨_, rfl⟩ | rfl <;> exact .of_streams rfl rfl
  | write blk size =>
    rcases write_cases h with ⟨k, _, rfl⟩ | ⟨_, _, rfl⟩ | rfl <;> exact .of_streams rfl rfl
  | teardown => exact absurd trivial hi
  | rxDone status =>
    rw [(rxDone_change h).eq]
    exact .of_streams rfl rfl
  | txDone status =>
    rw [(txDone_change h).eq]
    exact .of_streams rfl rfl
  | periphFault flags => exact .of_transfer (periphFault_transfer h)

/-- No operation changes the parameters (00_scope.md R7). -/
theorem exec_par {i : Instr} {s t : State} (h : exec i s = .next t) : t.par = s.par := by
  cases hp : i.port with
  | a =>
    obtain ⟨-, -, -, -, -, -, hpar⟩ := commandFrame i s t hp h
    exact hpar
  | b => rcases event_change hp h with hc | hc <;> rw [hc.eq]

/-- An edge of another operation leaves the state as it is, or it runs between states other than
NOT_READY (41_trigger.md R181). -/
theorem edge_cases {fd : Bool} {i : Instr} {d : Dir} {q q' : StreamState} (hi : ¬ writesCfg i)
    (h : edge fd i d q q') : q' = q ∨ (q ≠ .notReady ∧ q' ≠ .notReady) := by
  have hon : q = .running ∨ q = .stopping → q ≠ .notReady := by
    rintro (rfl | rfl) <;> decide
  have hfault : faultable q = true → q ≠ .notReady := by
    rintro hq rfl
    cases hq
  cases i with
  | configure => exact absurd trivial hi
  | triggerStart => exact h.imp_right fun ⟨hq, hq'⟩ => by simp [hq, hq']
  | triggerStop => exact h.imp_right fun ⟨hq, hq'⟩ => by simp [hq, hq']
  | triggerDrain =>
    refine h.imp_right fun ⟨hq, hq'⟩ => ⟨by simp [hq], ?_⟩
    rcases hq' with ⟨-, hq'⟩ | ⟨-, hq'⟩ <;> simp [hq']
  | triggerDrop => exact h.imp_right fun ⟨hq, hq'⟩ => ⟨hq, by simp [hq']⟩
  | triggerPrepare => exact h.imp_right fun ⟨hq, hq'⟩ => by simp [hq, hq']
  | status => exact .inl h
  | read => exact .inl h
  | write => exact .inl h
  | teardown => exact absurd trivial hi
  | rxDone =>
    rcases h with h | ⟨-, hq, rfl⟩ | ⟨-, -, hq, rfl⟩
    · exact .inl h
    · exact .inr ⟨hon hq, nofun⟩
    · exact .inr ⟨hfault hq, nofun⟩
  | txDone =>
    rcases h with h | ⟨-, hq, rfl⟩ | ⟨-, hq, rfl⟩ | ⟨-, -, hq, rfl⟩
    · exact .inl h
    · exact .inr ⟨hon hq, nofun⟩
    · exact .inr ⟨hon (.inr hq), nofun⟩
    · exact .inr ⟨hfault hq, nofun⟩
  | periphFault =>
    rcases h with h | ⟨hq, rfl⟩ | ⟨-, hq, rfl⟩
    · exact .inl h
    · exact .inr ⟨hon hq, nofun⟩
    · exact .inr ⟨by simp [hq], nofun⟩

theorem edge_notReady_iff {fd : Bool} {i : Instr} {d : Dir} {q q' : StreamState}
    (hi : ¬ writesCfg i) (h : edge fd i d q q') : q' = .notReady ↔ q = .notReady := by
  rcases edge_cases hi h with rfl | ⟨hq, hq'⟩
  · exact Iff.rfl
  · exact iff_of_false hq' hq

/-! ### The invariant, stream by stream -/

/-- What `CfgInv` says of stream `d`, when its registers are `a`. -/
structure CfgFits (p : Params) (d : Dir) (a : Stream) : Prop where
  off : a.state = .notReady → a.cfg = Cfg.zero
  on : a.state ≠ .notReady → CfgValid p a.cfg
  filler : d = .tx → a.cfg.repeatOnUnderrun = true → p.hasFiller = true

theorem cfgInv_iff {s : State} : CfgInv s ↔ ∀ d, CfgFits s.par d (s.stream d) := by
  constructor
  · intro h d
    refine ⟨h.off d, h.on d, ?_⟩
    rintro rfl
    exact h.filler
  · exact fun h => ⟨fun d => (h d).off, fun d => (h d).on, (h .tx).filler rfl⟩

theorem CfgFits.of_same {p : Params} {d : Dir} {a b : Stream} (h : CfgFits p d a)
    (hc : b.cfg = a.cfg) (hq : b.state = .notReady ↔ a.state = .notReady) : CfgFits p d b := by
  refine ⟨fun hb => ?_, fun hb => ?_, ?_⟩ <;> rw [hc]
  exacts [h.off (hq.1 hb), h.on (mt hq.2 hb), h.filler]

/-- A stream that is off and holds all zeros has no policy on. -/
theorem CfgFits.of_off {p : Params} {a : Stream} (hq : a.state = .notReady)
    (hc : a.cfg = Cfg.zero) (d : Dir) : CfgFits p d a :=
  ⟨fun _ => hc, fun h => absurd hq h, fun _ hr => by rw [hc] at hr; cases hr⟩

/-- `CfgInv` reads the parameters, the configurations, and which streams are in NOT_READY. -/
theorem CfgInv.of_same {s t : State} (h : CfgInv s) (hp : t.par = s.par) (hc : CfgSame s t)
    (hq : ∀ d, (t.stream d).state = .notReady ↔ (s.stream d).state = .notReady) : CfgInv t :=
  cfgInv_iff.2 fun d => hp ▸ (cfgInv_iff.1 h d).of_same (hc d) (hq d)

theorem CfgInv.of_env {s t : State} (h : CfgInv s) (he : EnvChange t s) : CfgInv t := by
  refine h.of_same he.par ?_ fun d => ?_ <;> rw [he.eq]
  · exact .of_streams rfl rfl
  · cases d <;> rfl

/-- The internal steps write no configuration and move no state (30_encoding.md R117). -/
theorem CfgInv.of_internal {s t : State} (h : CfgInv s) (hi : InternalChange t s) : CfgInv t := by
  refine h.of_same ?_ ?_ fun d => ?_ <;> rw [hi.eq]
  · exact .of_streams rfl rfl
  · cases d <;> rfl

theorem cfgInv_resetWith (p : Params) : CfgInv (State.resetWith p) :=
  cfgInv_iff.2 fun d => by rw [resetWith_stream]; exact .of_off rfl rfl d

/-! ### What CONFIGURE and TEARDOWN store -/

/-- The record `c` enables stream `d` and passed the checks made for it (R272). -/
structure Accepted (p : Params) (d : Dir) (c : Cfg) : Prop where
  valid : CfgValid p c
  filler : d = .tx → c.repeatOnUnderrun = true → p.hasFiller = true

/-- The upper half of `options` is `W1[31:28]` (30_encoding.md R105, R106). -/
theorem cfgOfWords_options_upper (w0 w1 w2 w3 w4 : Word) :
    (cfgOfWords w0 w1 w2 w3 w4).options.extractLsb' 4 4 = bits 4 28 w1 := by
  refine BitVec.eq_of_getLsbD_eq fun i hi => ?_
  rw [BitVec.getLsbD_extractLsb', cfgOfWords_options_getLsbD (by omega), bits_getLsbD hi]
  simp [hi, ← Nat.add_assoc]

theorem accepted_of_validRecord {p : Params} {T : List Dir} {w0 w1 w2 w3 w4 : Word} {d : Dir}
    (h0 : w0 ≠ 0#32) (h : validRecord p T w1 w3 (cfgOfWords w0 w1 w2 w3 w4) = true)
    (hd : d ∈ T) : Accepted p d (cfgOfWords w0 w1 w2 w3 w4) := by
  obtain ⟨hsize, hformat, ⟨-, -, hupper⟩, hblock, hfiller⟩ := validRecord_iff.1 h
  refine ⟨⟨h0, hsize, hformat, ?_, hblock⟩, fun htx => hfiller (htx ▸ hd)⟩
  rw [cfgOfWords_options_upper, hupper]

/-- A stream that took a record that disables it, or that was accepted (R271). -/
theorem cfgFits_configured {p : Params} {d : Dir} {c : Cfg} {a : Stream}
    (h : c.freq = 0#32 ∨ Accepted p d c) :
    CfgFits p d { a with state := configured c, cfg := storedCfg c } := by
  by_cases h0 : c.freq = 0#32
  · exact .of_off (if_pos h0) (if_pos h0) d
  · have hc : storedCfg c = c := if_neg h0
    have hq : configured c = .ready := if_neg h0
    have hacc := h.resolve_left h0
    rw [hc, hq]
    exact ⟨nofun, fun _ => hacc.valid, hacc.filler⟩

theorem cfgInv_configureOne {d : Dir} {c : Cfg} {s : State} (h : CfgInv s)
    (hc : c.freq = 0#32 ∨ Accepted s.par d c) : CfgInv (configureOne d c s) := by
  refine cfgInv_iff.2 fun e => ?_
  rw [configureOne_par]
  by_cases he : e = d
  · subst he
    rw [configureOne_eq, storeCfg_eq, upd_stream]
    exact cfgFits_configured hc
  · rw [(sideSame_configureOne d c s).stream_ne he]
    exact cfgInv_iff.1 h e

/-- CONFIGURE of any streams, with a record that disables or is accepted for each of them. -/
theorem cfgInv_foldl_configureOne {T : List Dir} {c : Cfg} {s : State} (h : CfgInv s)
    (hc : ∀ d ∈ T, c.freq = 0#32 ∨ Accepted s.par d c) :
    CfgInv (T.foldl (fun u d => configureOne d c u) s) := by
  induction T generalizing s with
  | nil => exact h
  | cons d T ih =>
    obtain ⟨hd, hT⟩ := List.forall_mem_cons.1 hc
    exact ih (cfgInv_configureOne h hd) (by rwa [configureOne_par])

/-- CONFIGURE answers a refusal, or stores a record that disables or is accepted (R271, R275). -/
theorem cfgInv_configure {dir : DirSel} {w0 w1 w2 w3 w4 : Word} {s t : State} (hc : CfgInv s)
    (h : exec (.configure dir w0 w1 w2 w3 w4) s = .next t) : CfgInv t := by
  have hrefused : ∀ k, CfgInv (respond .cmd k s) := fun k => hc.of_env (.record _ s)
  by_cases hst : ∀ d ∈ addressed dir, configurable (s.stream d).state = true
  · by_cases hbad : w0 ≠ 0#32 ∧
        validRecord s.par (addressed dir) w1 w3 (cfgOfWords w0 w1 w2 w3 w4) = false
    · obtain ⟨h0, hfails⟩ := hbad
      cases (exec_configure_badRecord hst h0 hfails).symm.trans h
      exact hrefused _
    · have hrec : w0 = 0#32 ∨
          validRecord s.par (addressed dir) w1 w3 (cfgOfWords w0 w1 w2 w3 w4) = true := by
        rwa [not_and_or, not_not, Bool.not_eq_false] at hbad
      cases (exec_configure_ok hst hrec).symm.trans h
      refine CfgInv.of_env (cfgInv_foldl_configureOne hc fun d hd => ?_) (.record _ _)
      rcases em (w0 = 0#32) with h0 | h0
      · exact .inl h0
      · exact .inr (accepted_of_validRecord h0 (hrec.resolve_left h0) hd)
  · have hoff : ∃ d ∈ addressed dir, configurable (s.stream d).state = false := by simpa using hst
    cases (exec_configure_badState hoff ..).symm.trans h
    exact hrefused _

/-- TEARDOWN leaves both streams off and both configurations zero (R274). -/
theorem cfgInv_teardown {s t : State} (i : Inv s) (h : exec .teardown s = .next t) : CfgInv t := by
  cases (teardownResets s i).symm.trans h
  exact cfgInv_iff.2 fun d => by cases d <;> exact .of_off rfl rfl _

/-! ### The step -/

theorem cfgInv_exec {i : Instr} {s t : State} (hs : Inv s) (hc : CfgInv s)
    (h : exec i s = .next t) : CfgInv t := by
  by_cases hi : writesCfg i
  · cases i with
    | configure => exact cfgInv_configure hc h
    | teardown => exact cfgInv_teardown hs h
    | _ => cases hi
  · exact hc.of_same (exec_par h) (cfgSame_exec hi h) fun d =>
      edge_notReady_iff hi (transitionTable i s t d hs h)

theorem cfgInv_word {m : Stimulus} {s t : State} (i : Inv s) (hc : CfgInv s)
    (hm : (∃ b, m = .command b) ∨ ∃ ew, m = .event ew) (h : runMove m s = .next t) :
    CfgInv t := by
  rcases runWord_cases hm h with ⟨k, u, hu, rfl, -⟩ | ⟨ch, rfl⟩ | rfl
  · exact (cfgInv_exec i hc hu).of_env rfl
  · exact hc.of_env (.record _ s)
  · exact hc

theorem cfgInv_runMove {m : Stimulus} {s t : State} (i : Inv s) (hc : CfgInv s)
    (h : runMove m s = .next t) : CfgInv t := by
  cases m with
  | command b => exact cfgInv_word i hc (.inl ⟨b, rfl⟩) h
  | event ew => exact cfgInv_word i hc (.inr ⟨ew, rfl⟩) h
  | rdGrant => cases h; exact hc.of_internal (internal_rdGrant s)
  | rdTimeout => cases h; exact hc.of_internal (internal_rdTimeout s)
  | wrGrant => cases h; exact hc.of_internal (internal_wrGrant s)
  | wrTimeout => cases h; exact hc.of_internal (internal_wrTimeout s)
  | tick => cases h; exact hc.of_internal (internal_tick s)
  | appAlloc b => cases h; exact hc.of_env rfl
  | appFree b => cases h; exact hc.of_env rfl
  | sync d j => cases h; exact hc.of_internal (internal_sync d j s)
  | reset => cases h; exact (cfgInv_resetWith s.par).of_env rfl

/-- Settles O14: a step waits or runs one move, and CONFIGURE and TEARDOWN, which alone write a
configuration, store a valid one or zeros. -/
theorem storedConfigurationValid : Obligations.StoredConfigurationValid := by
  unfold Obligations.StoredConfigurationValid
  refine ⟨cfgInv_resetWith, fun s t i hc h => ?_⟩
  rcases step_cases h with rfl | ⟨m, s', hl, hm⟩
  · exact hc
  · exact cfgInv_runMove (inv_env hl.env i) (hc.of_env hl.env) hm

end Sys2Proof.Machine
end

section
/-! No command raises a fault (60_exceptions.md R290): it leaves a stream as faulted as it was, or
out of ERROR with no cause (R299). -/

namespace Sys2Proof.Machine

/-! ### Streams in which no fault was raised -/

/-- From `a` to `b` no fault was raised: the stream shows the fault it showed, or it is out of ERROR
with no cause. -/
def NoFaultRaised (a b : Stream) : Prop :=
  (b.faultCause = a.faultCause ∧ (b.state = .error ↔ a.state = .error)) ∨
  (b.faultCause = .none ∧ b.state ≠ .error)

theorem NoFaultRaised.of_eq {a b : Stream} (hc : b.faultCause = a.faultCause)
    (hq : b.state = a.state) : NoFaultRaised a b := .inl ⟨hc, by rw [hq]⟩

theorem NoFaultRaised.refl (a : Stream) : NoFaultRaised a a := .of_eq rfl rfl

/-- A stream outside ERROR that moves to a state other than ERROR. -/
theorem NoFaultRaised.of_ne {a b : Stream} (hc : b.faultCause = a.faultCause)
    (ha : a.state ≠ .error) (hb : b.state ≠ .error) : NoFaultRaised a b :=
  .inl ⟨hc, iff_of_false hb ha⟩

theorem NoFaultRaised.trans {a b c : Stream} (h : NoFaultRaised a b) (g : NoFaultRaised b c) :
    NoFaultRaised a c := by
  rcases g with ⟨hcause, hstate⟩ | g
  · rcases h with ⟨hc, hq⟩ | ⟨hc, hq⟩
    · exact .inl ⟨hcause.trans hc, hstate.trans hq⟩
    · exact .inr ⟨hcause.trans hc, mt hstate.1 hq⟩
  · exact .inr g

/-- No fault was raised on either stream. -/
def NoneRaised (s t : State) : Prop := ∀ d, NoFaultRaised (s.stream d) (t.stream d)

theorem NoneRaised.refl (s : State) : NoneRaised s s := fun _ => .refl _

theorem NoneRaised.trans {s t u : State} (h : NoneRaised s t) (g : NoneRaised t u) :
    NoneRaised s u := fun d => (h d).trans (g d)

theorem NoneRaised.of_streams {s t : State} (h : ∀ d, t.stream d = s.stream d) :
    NoneRaised s t := fun d => by rw [h d]; exact .refl _

/-- The states and the fault causes are as before. -/
theorem NoneRaised.of_eq {s t : State} (hrx : t.rx.faultCause = s.rx.faultCause)
    (hrq : t.rx.state = s.rx.state) (htx : t.tx.faultCause = s.tx.faultCause)
    (htq : t.tx.state = s.tx.state) : NoneRaised s t := fun d => by
  cases d
  · exact .of_eq hrx hrq
  · exact .of_eq htx htq

theorem noneRaised_record (e : Event) (s : State) : NoneRaised s (record e s) :=
  .of_streams (record_stream e s)

/-- Changes of one stream each, made in turn, raise no fault if the change of a target raises none
on it. `P` is what the command's check says of each target. -/
theorem noneRaised_foldl {P : Stream → Prop} {f : State → Dir → State}
    (hf : ∀ u d, P (u.stream d) → NoFaultRaised (u.stream d) ((f u d).stream d))
    (hside : ∀ u d, SideSame d.other u (f u d)) {T : List Dir} (hT : T.Nodup) {s : State}
    (hP : ∀ d ∈ T, P (s.stream d)) : NoneRaised s (T.foldl f s) := by
  induction T generalizing s with
  | nil => exact .refl s
  | cons d T ih =>
    obtain ⟨hd, hnodup⟩ := List.nodup_cons.1 hT
    have hfirst : NoneRaised s (f s d) := by
      intro e
      by_cases he : e = d
      · subst he
        exact hf s e (hP e List.mem_cons_self)
      · rw [(hside s d).stream_ne he]
        exact .refl _
    have hrest : ∀ e ∈ T, P ((f s d).stream e) := fun e he => by
      rw [(hside s d).stream_ne fun hed => hd (hed ▸ he)]
      exact hP e (List.mem_cons_of_mem _ he)
    exact hfirst.trans (ih hnodup hrest)

/-! ### The procedures that take a stream out of ERROR -/

theorem setCause_cause (d : Dir) (c : FaultCause) (s : State) :
    ((setCause d c s).stream d).faultCause = c := by
  rw [setCause, upd_stream]

theorem setState_cause (d : Dir) (q : StreamState) (s : State) :
    ((setState d q s).stream d).faultCause = (s.stream d).faultCause := by
  rw [setState, upd_stream]

theorem setCfg_cause (d : Dir) (c : Cfg) (s : State) :
    ((setCfg d c s).stream d).faultCause = (s.stream d).faultCause := by
  rw [setCfg, upd_stream]

/-- StopStream clears the cause (41_trigger.md R173). -/
theorem stopStream_cause (d : Dir) (s : State) :
    ((stopStream d s).stream d).faultCause = .none := by
  rw [stopStream, setState_cause, setCause_cause]

/-- PREPARE clears the cause (R179). -/
theorem prepareOne_cause (d : Dir) (s : State) :
    ((prepareOne d s).stream d).faultCause = .none := by
  rw [prepareOne, setState_cause, clearLoss_stream, setCause_cause]

/-- CONFIGURE clears the cause (44_configure_status.md R271). -/
theorem configureOne_cause (d : Dir) (c : Cfg) (s : State) :
    ((configureOne d c s).stream d).faultCause = .none := by
  rw [configureOne_eq, ← prepareOne_cause d s, storeCfg]
  split <;> rw [setState_cause, setCfg_cause]

/-- TEARDOWN clears the cause (R274). -/
theorem teardownOne_cause (d : Dir) (s : State) :
    ((teardownOne d s).stream d).faultCause = .none := by
  rw [teardownOne, setState_cause, setCfg_cause, setCause_cause]

theorem noFaultRaised_stopStream (d : Dir) (s : State) :
    NoFaultRaised (s.stream d) ((stopStream d s).stream d) :=
  .inr ⟨stopStream_cause d s, by rw [stopStream_state]; decide⟩

theorem noFaultRaised_prepareOne (d : Dir) (s : State) :
    NoFaultRaised (s.stream d) ((prepareOne d s).stream d) :=
  .inr ⟨prepareOne_cause d s, by rw [prepareOne_state]; decide⟩

theorem noFaultRaised_configureOne (d : Dir) (c : Cfg) (s : State) :
    NoFaultRaised (s.stream d) ((configureOne d c s).stream d) := by
  refine .inr ⟨configureOne_cause d c s, ?_⟩
  rw [configureOne_state, configured]
  split <;> decide

theorem noFaultRaised_teardownOne (d : Dir) (s : State) :
    NoFaultRaised (s.stream d) ((teardownOne d s).stream d) :=
  .inr ⟨teardownOne_cause d s, by rw [teardownOne_state]; decide⟩

/-- DRAIN of a stream that is RUNNING stops it or lets it play out (R177). -/
theorem noFaultRaised_drainOne {d : Dir} {s : State}
    (h : legal .drain (s.stream d).state = true) :
    NoFaultRaised (s.stream d) ((drainOne d s).stream d) := by
  cases d
  · exact noFaultRaised_stopStream .rx s
  · have hrun : s.tx.state = .running := of_decide_eq_true h
    rw [drainOne, drainTx_eq]
    exact .of_ne rfl (by simp [hrun]) nofun

/-! ### The commands -/

theorem noneRaised_trigger {x : Trigger} {T : List Dir} {f : State → Dir → State} {s t : State}
    (hT : T.Nodup)
    (hf : ∀ u d, legal x (u.stream d).state = true →
      NoFaultRaised (u.stream d) ((f u d).stream d))
    (hside : ∀ u d, SideSame d.other u (f u d))
    (h : (if allLegal x T s then .next (respond .cmd .ok (T.foldl f s))
      else .next (respond .cmd .invalidState s) : Host.Outcome State Fault Refusal) = .next t) :
    NoneRaised s t := by
  rcases trigger_cases h with ⟨hl, rfl⟩ | rfl
  · exact (noneRaised_foldl (P := fun a => legal x a.state = true) hf hside hT hl).trans
      (noneRaised_record _ _)
  · exact noneRaised_record _ s

theorem noneRaised_start {dir : DirSel} {s t : State} (h : execTriggerStart dir s = .next t) :
    NoneRaised s t := by
  rcases start_streams h with ⟨hready, hs, -⟩ | ⟨hsame, -⟩ | rfl
  · intro d
    by_cases hd : d ∈ targets dir s
    · obtain ⟨k, hk⟩ := hs.target d hd
      rw [hk]
      exact .of_ne rfl (by simp [hready d hd]) nofun
    · rw [hs.other d hd]
      exact .refl _
  · exact .of_streams hsame
  · exact noneRaised_record _ s

theorem noneRaised_configure {dir : DirSel} {w0 w1 w2 w3 w4 : Word} {s t : State}
    (h : execConfigure dir w0 w1 w2 w3 w4 s = .next t) : NoneRaised s t := by
  rcases configure_cases h with ⟨hl, rfl⟩ | ⟨k, rfl⟩
  · exact (noneRaised_foldl (P := fun a => configurable a.state = true)
      (fun u d _ => noFaultRaised_configureOne d _ u) (fun u d => sideSame_configureOne d _ u)
      (addressed_nodup dir) hl).trans (noneRaised_record _ _)
  · exact noneRaised_record _ s

theorem noneRaised_teardown {s t : State} (h : exec .teardown s = .next t) : NoneRaised s t := by
  obtain ⟨u, rfl, -, rfl⟩ := teardown_eq h
  have hboth : NoneRaised s ([Dir.rx, .tx].foldl (fun v d => teardownOne d v) s) :=
    noneRaised_foldl (P := fun _ => True) (fun v d _ => noFaultRaised_teardownOne d v)
      (fun v d => sideSame_teardownOne d v) (by decide) fun _ _ => trivial
  exact hboth.trans (.of_streams fun d => by cases d <;> rfl)

/-- No command raises a fault (R290). -/
theorem command_noneRaised {i : Instr} {s t : State} (ha : i.port = .a)
    (h : exec i s = .next t) : NoneRaised s t := by
  cases i with
  | configure => exact noneRaised_configure h
  | triggerStart dir => exact noneRaised_start h
  | triggerStop dir =>
    exact noneRaised_trigger (targets_nodup dir s) (fun u d _ => noFaultRaised_stopStream d u)
      (fun u d => sideSame_stopStream d u) h
  | triggerDrain dir =>
    exact noneRaised_trigger (targets_nodup dir s) (fun u d hd => noFaultRaised_drainOne hd)
      (fun u d => sideSame_drainOne d u) h
  | triggerDrop dir =>
    exact noneRaised_trigger (targets_nodup dir s) (fun u d _ => noFaultRaised_stopStream d u)
      (fun u d => sideSame_stopStream d u) h
  | triggerPrepare dir =>
    exact noneRaised_trigger (targets_nodup dir s) (fun u d _ => noFaultRaised_prepareOne d u)
      (fun u d => sideSame_prepareOne d u) h
  | status dir =>
    obtain ⟨r, _, rfl⟩ := status_cases h
    exact noneRaised_record _ s
  | read => rcases read_cases h with rfl | ⟨_, rfl⟩ | rfl <;> exact .of_eq rfl rfl rfl rfl
  | write blk size =>
    rcases write_cases h with ⟨k, _, rfl⟩ | ⟨_, _, rfl⟩ | rfl <;> exact .of_eq rfl rfl rfl rfl
  | teardown => exact noneRaised_teardown h
  | rxDone status => cases ha
  | txDone status => cases ha
  | periphFault flags => cases ha

end Sys2Proof.Machine
end

section
/-! A stream shows a fault cause exactly while it is in ERROR (60_exceptions.md R293, R295, R299): a
fault entry sets both, and what takes a stream out of ERROR clears the cause. -/

namespace Sys2Proof.Machine

/-! ### What keeps the invariant -/

theorem NoFaultRaised.cause_iff {a b : Stream} (h : NoFaultRaised a b)
    (ha : a.faultCause ≠ .none ↔ a.state = .error) :
    b.faultCause ≠ .none ↔ b.state = .error := by
  rcases h with ⟨hc, hq⟩ | ⟨hc, hq⟩
  · rw [hc, ha, hq]
  · exact iff_of_false (not_not_intro hc) hq

theorem CauseInv.of_noneRaised {s t : State} (h : CauseInv s) (hn : NoneRaised s t) :
    CauseInv t := fun d => (hn d).cause_iff (h d)

theorem CauseInv.of_env {s t : State} (h : CauseInv s) (he : EnvChange t s) : CauseInv t := by
  refine h.of_noneRaised ?_
  rw [he.eq]
  exact .of_eq rfl rfl rfl rfl

/-- The internal steps raise no fault and clear none (41_trigger.md R181). -/
theorem CauseInv.of_internal {s t : State} (h : CauseInv s) (hi : InternalChange t s) :
    CauseInv t := by
  refine h.of_noneRaised ?_
  rw [hi.eq]
  exact .of_eq rfl rfl rfl rfl

theorem causeInv_resetWith (p : Params) : CauseInv (State.resetWith p) := fun d => by
  rw [resetWith_stream]
  exact iff_of_false (not_not_intro rfl) nofun

/-! ### Faults -/

/-- A fault entry puts the stream in ERROR with its cause (60_exceptions.md R295). -/
theorem causeInv_faultOne {d : Dir} {c : FaultCause} {s : State} (hc : c ≠ .none)
    (h : CauseInv s) : CauseInv (faultOne d c s) := by
  intro e
  by_cases he : e = d
  · subst he
    rw [faultOne_cause, faultOne_state]
    exact iff_of_true hc rfl
  · rw [faultOne_stream_ne he]
    exact h e

theorem causeInv_couple (d : Dir) {s : State} (h : CauseInv s) : CauseInv (couple d s) := by
  unfold couple
  split
  · exact causeInv_faultOne nofun h
  · exact h

theorem causeInv_fault {d : Dir} {c : FaultCause} {s : State} (hc : c ≠ .none)
    (h : CauseInv s) : CauseInv (fault d c s) := causeInv_couple _ (causeInv_faultOne hc h)

theorem causeInv_periphOne (d : Dir) (v : Bool) {s : State} (h : CauseInv s) :
    CauseInv (periphOne d v s) := by
  unfold periphOne
  split
  · exact causeInv_faultOne nofun h
  · exact h

/-! ### The events -/

theorem causeInv_rxDeliver (b : Block) {s : State} (h : CauseInv s) :
    CauseInv (rxDeliver b id s) := by
  rcases rxDeliver_cases b id s with ⟨_, he⟩ | ⟨_, _, he⟩ | ⟨_, _, he⟩ <;> rw [he]
  · exact h.of_noneRaised (.of_eq rfl rfl rfl rfl)
  · exact h.of_noneRaised (.of_eq rfl rfl rfl rfl)
  · exact causeInv_fault nofun (h.of_env (.record _ s))

theorem causeInv_rxDone {status : BitVec 8} {s t : State} (i : Inv s) (hc : CauseInv s)
    (h : execRxDone status s = .next t) : CauseInv t := by
  rcases rxDone_cases h with rfl | ⟨_, rfl⟩ | ⟨_, _, hst, _⟩ | ⟨_, _, _, rfl⟩
  · exact hc
  · exact causeInv_fault nofun hc
  · exact absurd hst i.rx.not_stopping
  · rcases rxDoneRunning_cases s with ⟨s1, ha, he⟩ | ⟨nb, s1, ha, he⟩ <;> rw [he]
    · exact causeInv_fault nofun (hc.of_env (ask_env ha).1)
    · have hload : NoneRaised s1 (reloaded nb s1) := .of_eq rfl rfl rfl rfl
      exact causeInv_rxDeliver _ ((hc.of_env (ask_env ha).1).of_noneRaised hload)

/-- The end of a drain moves TX from STOPPING to READY (42_completion.md R218). -/
theorem noneRaised_drainEnd {s : State} (h : s.tx.state = .stopping) :
    NoneRaised s (drainEnd s) := by
  rw [drainEnd, disable_eq]
  intro d
  cases d
  · exact .refl _
  · exact .of_ne rfl (by simp [h]) nofun

theorem noneRaised_sent (s : State) : NoneRaised s (sent s) := by
  rw [sent_eq]
  exact .of_eq rfl rfl rfl rfl

theorem noneRaised_txNext (b : Block) (s : State) : NoneRaised s (txNext b s) := by
  have hmark : ∀ u, NoneRaised u (markLast u) := fun u => by
    rw [markLast_eq]
    exact .of_eq rfl rfl rfl rfl
  have hgive : NoneRaised s (give .tx { s with underrun := false }) := .of_eq rfl rfl rfl rfl
  have hsend : ∀ u, NoneRaised u (txSend b u) := fun u => .of_eq rfl rfl rfl rfl
  exact hgive.trans ((hmark _).trans (hsend _))

theorem causeInv_txEmpty {s : State} (h : CauseInv s) : CauseInv (txEmpty s) := by
  unfold txEmpty
  split
  · rename_i hst
    exact h.of_noneRaised (noneRaised_drainEnd hst)
  · split
    · exact h.of_noneRaised (.of_eq rfl rfl rfl rfl)
    · exact causeInv_fault nofun h

theorem causeInv_txDone {status : BitVec 8} {s t : State} (i : Inv s) (hc : CauseInv s)
    (h : execTxDone status s = .next t) : CauseInv t := by
  rcases txDone_cases h with rfl | ⟨_, rfl⟩ | ⟨_, _, rfl⟩
  · exact hc
  · exact causeInv_fault nofun hc
  · have hsent : CauseInv (sent s) := hc.of_noneRaised (noneRaised_sent s)
    rcases txDoneOk_cases s with ⟨hlast, he⟩ | ⟨_, _, he⟩ | ⟨_, _, he⟩ <;> rw [he]
    · have hst : (sent s).tx.state = .stopping :=
        ((statesSame_sent s).state .tx).trans (i.tx.last hlast)
      exact hsent.of_noneRaised (noneRaised_drainEnd hst)
    · exact causeInv_txEmpty hsent
    · have hpop : NoneRaised (sent s) (popped .tx (sent s)) := .of_eq rfl rfl rfl rfl
      exact hsent.of_noneRaised (hpop.trans (noneRaised_txNext _ _))

theorem causeInv_periphFault {flags : BitVec 3} {s t : State} (hc : CauseInv s)
    (h : execPeriphFault flags s = .next t) : CauseInv t := by
  have hemit : CauseInv (emit .clearErrors s) := hc.of_env (.record _ s)
  rcases periphFault_cases h with rfl | rfl | rfl
  · exact hc
  · exact hemit
  · exact causeInv_couple .tx (causeInv_couple .rx
      (causeInv_periphOne .tx _ (causeInv_periphOne .rx _ hemit)))

/-! ### The step -/

theorem causeInv_exec {i : Instr} {s t : State} (hs : Inv s) (hc : CauseInv s)
    (h : exec i s = .next t) : CauseInv t := by
  cases hp : i.port with
  | a => exact hc.of_noneRaised (command_noneRaised hp h)
  | b =>
    cases i with
    | rxDone status => exact causeInv_rxDone hs hc h
    | txDone status => exact causeInv_txDone hs hc h
    | periphFault flags => exact causeInv_periphFault hc h
    | _ => cases hp

theorem causeInv_word {m : Stimulus} {s t : State} (i : Inv s) (hc : CauseInv s)
    (hm : (∃ b, m = .command b) ∨ ∃ ew, m = .event ew) (h : runMove m s = .next t) :
    CauseInv t := by
  rcases runWord_cases hm h with ⟨k, u, hu, rfl, -⟩ | ⟨ch, rfl⟩ | rfl
  · exact (causeInv_exec i hc hu).of_env rfl
  · exact hc.of_env (.record _ s)
  · exact hc

theorem causeInv_runMove {m : Stimulus} {s t : State} (i : Inv s) (hc : CauseInv s)
    (h : runMove m s = .next t) : CauseInv t := by
  cases m with
  | command b => exact causeInv_word i hc (.inl ⟨b, rfl⟩) h
  | event ew => exact causeInv_word i hc (.inr ⟨ew, rfl⟩) h
  | rdGrant => cases h; exact hc.of_internal (internal_rdGrant s)
  | rdTimeout => cases h; exact hc.of_internal (internal_rdTimeout s)
  | wrGrant => cases h; exact hc.of_internal (internal_wrGrant s)
  | wrTimeout => cases h; exact hc.of_internal (internal_wrTimeout s)
  | tick => cases h; exact hc.of_internal (internal_tick s)
  | appAlloc b => cases h; exact hc.of_env rfl
  | appFree b => cases h; exact hc.of_env rfl
  | sync d j => cases h; exact hc.of_internal (internal_sync d j s)
  | reset => cases h; exact (causeInv_resetWith s.par).of_env rfl

/-- Settles O15: a step waits or runs one move; commands and internal steps raise no fault, and an
event that does sets state and cause together. -/
theorem causeExactlyInError : Obligations.CauseExactlyInError := by
  unfold Obligations.CauseExactlyInError
  refine ⟨causeInv_resetWith, fun s t i hc h => ?_⟩
  rcases step_cases h with rfl | ⟨m, s', hl, hm⟩
  · exact hc
  · exact causeInv_runMove (inv_env hl.env i) (hc.of_env hl.env) hm

end Sys2Proof.Machine
end

section
/-! Errors and faults are apart (60_exceptions.md R290): no event has a response, and a command that
is refused has no other effect (R292, 44_configure_status.md R275). -/

namespace Sys2Proof.Machine

/-! ### Events have no response -/

/-- What was appended holds no response. -/
theorem responses_of_append {s t : State} {l : List Event} (h : t.log = s.log ++ l)
    (hl : respsOf l = []) : responses t = responses s := by
  rw [responses, h, respsOf_append, hl, List.append_nil, responses]

theorem respsOf_calls (l : List Call) : respsOf (l.map .call) = [] := by
  simp [respsOf, Event.resp?, List.filterMap_eq_nil_iff]

@[simp] theorem responses_upd (d : Dir) (f : Stream → Stream) (s : State) :
    responses (s.upd d f) = responses s := by
  rw [responses, upd_log, responses]

@[simp] theorem responses_setState (d : Dir) (q : StreamState) (s : State) :
    responses (setState d q s) = responses s := responses_upd d _ s

@[simp] theorem responses_setActive (d : Dir) (b : Block) (s : State) :
    responses (setActive d b s) = responses s := responses_upd d _ s

@[simp] theorem responses_disable (d : Dir) (s : State) :
    responses (disable d s) = responses s :=
  responses_of_append (by rw [disable_eq]) (respsOf_calls _)

@[simp] theorem responses_faultOne (d : Dir) (c : FaultCause) (s : State) :
    responses (faultOne d c s) = responses s :=
  responses_of_append (by rw [faultOne_eq]) (respsOf_calls _)

@[simp] theorem responses_couple (d : Dir) (s : State) : responses (couple d s) = responses s := by
  unfold couple
  split
  · exact responses_faultOne d _ s
  · rfl

@[simp] theorem responses_fault (d : Dir) (c : FaultCause) (s : State) :
    responses (fault d c s) = responses s := by
  rw [fault, responses_couple, responses_faultOne]

@[simp] theorem responses_periphOne (d : Dir) (v : Bool) (s : State) :
    responses (periphOne d v s) = responses s := by
  unfold periphOne
  split
  · exact responses_faultOne d _ s
  · rfl

theorem responses_ask {d : Dir} {held : List Handle} {s t : State} {a : PoolAnswer}
    (h : ask d held s = (a, t)) : responses t = responses s :=
  responses_of_append (ask_log h) rfl

theorem responses_rxDeliver (b : Block) {k : State → State}
    (hk : ∀ u, responses (k u) = responses u) (s : State) :
    responses (rxDeliver b k s) = responses s := by
  rcases rxDeliver_cases b k s with ⟨_, he⟩ | ⟨_, _, he⟩ | ⟨_, _, he⟩ <;> rw [he]
  · rw [hk, give, responses_upd, pushed, responses_upd]
  · exact (hk _).trans (responses_emit (.poolFree .rx b.h) s)
  · rw [responses_fault, responses_emit]

theorem responses_rxDone {status : BitVec 8} {s t : State} (h : execRxDone status s = .next t) :
    responses t = responses s := by
  rcases rxDone_cases h with rfl | ⟨_, rfl⟩ | ⟨_, _, _, rfl⟩ | ⟨_, _, _, rfl⟩
  · rfl
  · exact responses_fault .rx _ s
  · rw [rxDoneStopping, responses_rxDeliver _ fun u => by simp, responses_setActive]
  · rcases rxDoneRunning_cases s with ⟨s1, ha, he⟩ | ⟨nb, s1, ha, he⟩ <;> rw [he]
    · rw [responses_fault, responses_ask ha]
    · rw [responses_rxDeliver (k := id) _ fun _ => rfl, reloaded, responses_emit,
        responses_setActive, responses_ask ha]

@[simp] theorem responses_drainEnd (s : State) : responses (drainEnd s) = responses s := by
  rw [drainEnd, responses_disable, responses_setState]

@[simp] theorem responses_txSend (b : Block) (s : State) :
    responses (txSend b s) = responses s := by
  rw [txSend, responses_setActive, responses_emit, responses_emit]

@[simp] theorem responses_sent (s : State) : responses (sent s) = responses s := by
  have hcopy : ∀ b, responses (copyFiller b s) = responses s := fun b => by
    unfold copyFiller
    split
    · exact responses_emit (.fillerCopy b.h b.sz) s
    · rfl
  rw [sent, responses_setActive, releaseSent]
  split
  · rw [responses_emit, hcopy]
  · rfl

theorem responses_txEmpty (s : State) : responses (txEmpty s) = responses s := by
  unfold txEmpty
  split
  · exact responses_drainEnd s
  · split
    · exact responses_txSend _ { s with underrun := true }
    · exact responses_fault .tx _ s

theorem responses_markLast (s : State) : responses (markLast s) = responses s := by
  rw [markLast_eq]
  rfl

theorem responses_txNext (b : Block) (s : State) : responses (txNext b s) = responses s := by
  rw [txNext, responses_txSend, responses_markLast, give, responses_upd]
  rfl

theorem responses_txDone {status : BitVec 8} {s t : State} (h : execTxDone status s = .next t) :
    responses t = responses s := by
  rcases txDone_cases h with rfl | ⟨_, rfl⟩ | ⟨_, _, rfl⟩
  · rfl
  · exact responses_fault .tx _ s
  · rcases txDoneOk_cases s with ⟨_, he⟩ | ⟨_, _, he⟩ | ⟨_, _, he⟩ <;> rw [he]
    · rw [responses_drainEnd, responses_sent]
    · rw [responses_txEmpty, responses_sent]
    · rw [responses_txNext, popped, responses_upd, responses_sent]

theorem responses_periphFault {flags : BitVec 3} {s t : State}
    (h : execPeriphFault flags s = .next t) : responses t = responses s := by
  rcases periphFault_cases h with rfl | rfl | rfl
  · rfl
  · exact responses_emit .clearErrors s
  · simp

/-- No event has a response (42_completion.md R210). -/
theorem event_responses {i : Instr} {s t : State} (hb : i.port = .b) (h : exec i s = .next t) :
    responses t = responses s := by
  cases i with
  | rxDone status => exact responses_rxDone h
  | txDone status => exact responses_txDone h
  | periphFault flags => exact responses_periphFault h
  | _ => cases hb

/-- Settles O53: a stream in ERROR after a command was in ERROR before it, since the command raised
no fault; and events answer nothing. -/
theorem errorsAndFaultsApart : Obligations.ErrorsAndFaultsApart := by
  unfold Obligations.ErrorsAndFaultsApart
  refine fun i s t h => ⟨fun ha d => ?_, fun hb => event_responses hb h⟩
  rcases command_noneRaised ha h d with ⟨hcause, hstate⟩ | ⟨hcause, hstate⟩
  · exact ⟨hstate.1, .inl hcause⟩
  · exact ⟨fun he => absurd he hstate, .inr hcause⟩

/-! ### Refusals -/

/-- The codes of a refusal (60_exceptions.md R292). -/
def refuses (k : Code) : Prop := k = .invalidArgument ∨ k = .invalidState

/-- From `s` to `t` a command made one entry in the history and changed nothing else, or it made
none, or it ended with an answer that is no refusal. -/
def RefusesCleanly (s t : State) : Prop :=
  (∃ e, t = record e s) ∨ t.log = s.log ∨ ∃ k u, ¬ refuses k ∧ t = respond .cmd k u

theorem refusesCleanly_record (e : Event) (s : State) : RefusesCleanly s (record e s) :=
  .inl ⟨e, rfl⟩

theorem refusesCleanly_ok (s u : State) : RefusesCleanly s (respond .cmd .ok u) :=
  .inr (.inr ⟨.ok, u, by simp [refuses], rfl⟩)

theorem refusesCleanly_trigger {x : Trigger} {T : List Dir} {f : State → Dir → State}
    {s t : State}
    (h : (if allLegal x T s then .next (respond .cmd .ok (T.foldl f s))
      else .next (respond .cmd .invalidState s) : Host.Outcome State Fault Refusal) = .next t) :
    RefusesCleanly s t := by
  rcases trigger_cases h with ⟨_, rfl⟩ | rfl
  · exact refusesCleanly_ok s _
  · exact refusesCleanly_record _ s

/-- A command checks everything before it changes anything (R292, 44_configure_status.md R275). -/
theorem command_refusesCleanly {i : Instr} {s t : State} (ha : i.port = .a)
    (h : exec i s = .next t) : RefusesCleanly s t := by
  cases i with
  | configure dir w0 w1 w2 w3 w4 =>
    rcases configure_cases h with ⟨_, rfl⟩ | ⟨k, rfl⟩
    · exact refusesCleanly_ok s _
    · exact refusesCleanly_record _ s
  | triggerStart dir =>
    rcases start_cases h with ⟨got, s1, _, _, rfl⟩ | ⟨s1, _, rfl⟩ | rfl
    · exact refusesCleanly_ok s _
    · exact .inr (.inr ⟨.resourceExhausted, s1, by simp [refuses], rfl⟩)
    · exact refusesCleanly_record _ s
  | triggerStop dir => exact refusesCleanly_trigger h
  | triggerDrain dir => exact refusesCleanly_trigger h
  | triggerDrop dir => exact refusesCleanly_trigger h
  | triggerPrepare dir => exact refusesCleanly_trigger h
  | status dir =>
    obtain ⟨r, _, rfl⟩ := status_cases h
    exact refusesCleanly_record _ s
  | read =>
    rcases read_cases h with rfl | ⟨_, rfl⟩ | rfl
    · exact refusesCleanly_record _ s
    · exact .inr (.inl rfl)
    · exact .inr (.inl rfl)
  | write blk size =>
    rcases write_cases h with ⟨k, _, rfl⟩ | ⟨_, _, rfl⟩ | rfl
    · exact refusesCleanly_record _ s
    · exact .inr (.inl rfl)
    · exact .inr (.inl rfl)
  | teardown =>
    obtain ⟨u, _, _, rfl⟩ := teardown_eq h
    exact refusesCleanly_ok s _
  | rxDone status => cases ha
  | txDone status => cases ha
  | periphFault flags => cases ha

/-- A last entry that is a refusal is the only change. -/
theorem RefusesCleanly.eq {s t : State} {ch : Channel} {k : Code} (h : RefusesCleanly s t)
    (hlog : t.log ≠ s.log) (hlast : t.log.getLast? = some (answered ch k)) (hk : refuses k) :
    t = { s with log := s.log ++ [answered ch k] } := by
  rcases h with ⟨e, rfl⟩ | hsame | ⟨k', u, hn, rfl⟩
  · obtain rfl : e = answered ch k := by simpa using hlast
    rfl
  · exact absurd hsame hlog
  · rw [respond_getLast?] at hlast
    obtain ⟨-, rfl⟩ : .cmd = ch ∧ k' = k := by simpa [answered] using hlast
    exact absurd hk hn

/-- If an operation's last entry is a response, it gave a response. -/
theorem responses_ne_of_getLast? {s t : State} {r : Response} (hg : Grows s t)
    (hlog : t.log ≠ s.log) (hlast : t.log.getLast? = some (.resp r)) :
    responses t ≠ responses s := by
  obtain ⟨l, hl⟩ := hg
  rcases List.eq_nil_or_concat' l with rfl | ⟨m, e, rfl⟩
  · exact absurd (by rw [← hl, List.append_nil]) hlog
  · rw [← hl, ← List.append_assoc, List.getLast?_concat] at hlast
    cases hlast
    rw [responses, responses, ← hl]
    simp [respsOf, Event.resp?]

/-- Settles O54: a command checks before it changes anything, and an event has no response to end
with. -/
theorem refusalsHaveNoSideEffect : Obligations.RefusalsHaveNoSideEffect := by
  unfold Obligations.RefusalsHaveNoSideEffect
  intro i s t ch k h hlog hlast hk
  cases hp : i.port with
  | a => exact (command_refusesCleanly hp h).eq hlog hlast hk
  | b =>
    exact absurd (event_responses hp h)
      (responses_ne_of_getLast? (exec_appends i s t h) hlog hlast)

end Sys2Proof.Machine
end

section
/-! The reset input (70_reset_and_hazards.md R330 to R332). -/

namespace Sys2Proof.Machine

/-- Settles O10: the move is `hwReset` alone, with no call and no answer around it (R332), and
`hwReset` puts the reset registers under the environment's own data (log 20). -/
theorem resetInput : Obligations.ResetInput := by
  unfold Obligations.ResetInput
  intro s
  rw [runMove, hwReset]

end Sys2Proof.Machine
end
